-- ==== Sys2Proof/Word.lean ====
section
/-!
DEFINITION. The widths of the block's values (00_scope.md R7, 10_state.md R20).
-/

namespace Sys2Proof

/-- A register, a command word or the data of a bus access: `WORD` = 32 bits (R7). -/
abbrev Word := BitVec 32

/-- A byte of a payload, a frame or a raw response. -/
abbrev Byte := BitVec 8

/-- A checksum value: `CRCW` = 16 bits (R7, R28). -/
abbrev Crc := BitVec 16

/-- A register offset: `OFFW` = 12 bits (R7, R60). -/
abbrev Offset := BitVec 12

end Sys2Proof
end

