-- ==== Sys2Proof/Syntax.lean ====
section
/-!
DEFINITION. The syntax of the block: its eleven commands (30_encoding.md R82), the causes of a command error
(60_exceptions.md R200), the bus accesses and the other events that reach it from outside (20_memory.md R61,
70_reset_and_hazards.md R230), the registers of its map (10_state.md R22), the characters, reasons and field types of the
parser (43_parser.md R163, 10_state.md R33, R36), and the lines of a command program (30_encoding.md R89, R90).
-/

namespace Sys2Proof

/-- The commands of 30_encoding.md R82, in the table's order. The three with an operand carry IMM8. -/
inductive Instr where
  | nop
  | errclr
  | sreset
  | crcClr
  | crcByte (imm8 : Byte)
  | frmClr
  | frmPush (imm8 : Byte)
  | frmBuild
  | rxClr
  | rxPush (imm8 : Byte)
  | parse
  deriving DecidableEq, Repr

/-- The causes a command error can have (60_exceptions.md R200). -/
inductive Cause where
  | illegalOpcode
  | reservedNonzero
  | nonAscii
  | payloadFull
  | rxFull
  deriving DecidableEq, Repr

/-- What decoding a command word gives: a command, or the cause of the error it raises (30_encoding.md R86). -/
inductive Decoded where
  | instr (i : Instr)
  | error (c : Cause)
  deriving DecidableEq, Repr

/-- The size `n` of a bus access, in bytes: 1, 2 or 4 (20_memory.md R61). -/
inductive AccessSize where
  | one
  | two
  | four
  deriving DecidableEq, Repr

/-- What a bus access does; a write carries its data (20_memory.md R61). -/
inductive BusOp where
  | read
  | write (wdata : Word)
  deriving DecidableEq, Repr

/-- A bus access `(op, off, n, wdata)` (20_memory.md R61). -/
structure Access where
  op : BusOp
  off : Offset
  size : AccessSize
  deriving DecidableEq, Repr

/-- The response of a bus access (20_memory.md R61). -/
inductive BusStatus where
  | ok
  | busError
  deriving DecidableEq, Repr, Inhabited

/-- The answer to a bus access: its response and, for a read, 32 bits of read data (20_memory.md R61). The answer to a
write carries no data (log 2). -/
structure Response where
  status : BusStatus
  rdata : Option Word
  deriving DecidableEq, Repr, Inhabited

/-- What reaches the block from outside: a bus access, the hardware reset input becoming asserted or released, power-up
(70_reset_and_hazards.md R230, R232; log 1, log 3, log 5). -/
inductive Input where
  | access (a : Access)
  | resetAssert
  | resetRelease
  | powerUp
  deriving DecidableEq, Repr

/-- The registers, windows and reserved offsets of the register map (10_state.md R22). -/
inductive Reg where
  | id
  | caps
  | ctrl
  | status
  | cmd
  | crc
  | plen
  | txlen
  | rxlen
  | pres
  | fval (k : Fin 10)
  | fscl (k : Fin 10)
  | txwin (j : Fin 64)
  | rxwin (j : Fin 64)
  | reserved
  deriving DecidableEq, Repr

/-- A character of the decoded text: an ASCII code 0x00 to 0x7F, or the one extra character REPL (43_parser.md R163). -/
inductive Chr where
  | ascii (code : BitVec 7)
  | repl
  deriving DecidableEq, Repr

/-- The outcome codes of a PARSE, by name (10_state.md R33). -/
inductive Reason where
  | notRun
  | ok
  | noStart
  | fewTokens
  | notNumeric
  | outOfRange
  deriving DecidableEq, Repr

/-- The type of a telemetry field (10_state.md R36). -/
inductive FieldType where
  | integer
  | float
  deriving DecidableEq, Repr

/-- What converting a token gives: the pair `(sig, scl)` of 43_parser.md R171, or `Fail(c)` (R172, R173). -/
inductive Converted where
  | value (sig : Int) (scl : Nat)
  | fail (c : Reason)
  deriving DecidableEq, Repr

/-- A line of a command program: a command, or one of the host's two other bus accesses (30_encoding.md R89). -/
inductive Line where
  | command (i : Instr)
  | wr (r : Reg) (v : Word)
  | rd (r : Reg)
  deriving DecidableEq, Repr

/-- A pseudo-instruction with its operand bytes (30_encoding.md R90). -/
inductive Pseudo where
  | crcstr (s : List Byte)
  | frame (s : List Byte)
  | rxbytes (bs : List Byte)
  | rxstr (s : List Byte)
  deriving DecidableEq, Repr

end Sys2Proof
end

