-- ==== Sys2Proof/WellFormed.lean ====
section
/-!
DEFINITION. Well-formedness, as checks that run: a command word is well formed when it selects a row of the opcode table
(30_encoding.md R82), an instruction when the word it assembles to (R89) selects its own row, a bus access when it is
one that acts (20_memory.md R63).
-/

namespace Sys2Proof

/-- A row of the opcode table: `(w and mask) = pattern` selects it (30_encoding.md R82). -/
structure OpcodeRow where
  mnemonic : String
  pattern : Word
  mask : Word
  deriving DecidableEq, Repr

/-- The row of each command, as the table of 30_encoding.md R82 prints it. -/
def Instr.row : Instr → OpcodeRow
  | .nop => ⟨"NOP", 0x00000000, 0xFFFFFFFF⟩
  | .errclr => ⟨"ERRCLR", 0x01000000, 0xFFFFFFFF⟩
  | .sreset => ⟨"SRESET", 0x02000000, 0xFFFFFFFF⟩
  | .crcClr => ⟨"CRC.CLR", 0x10000000, 0xFFFFFFFF⟩
  | .crcByte _ => ⟨"CRC.BYTE", 0x11000000, 0xFFFFFF00⟩
  | .frmClr => ⟨"FRM.CLR", 0x20000000, 0xFFFFFFFF⟩
  | .frmPush _ => ⟨"FRM.PUSH", 0x21000000, 0xFFFFFF00⟩
  | .frmBuild => ⟨"FRM.BUILD", 0x22000000, 0xFFFFFFFF⟩
  | .rxClr => ⟨"RX.CLR", 0x30000000, 0xFFFFFFFF⟩
  | .rxPush _ => ⟨"RX.PUSH", 0x31000000, 0xFFFFFF00⟩
  | .parse => ⟨"PARSE", 0x32000000, 0xFFFFFFFF⟩

/-- The eleven rows, in the table's order (30_encoding.md R82). -/
def opcodeTable : List OpcodeRow :=
  [Instr.nop, .errclr, .sreset, .crcClr, .crcByte 0, .frmClr, .frmPush 0, .frmBuild, .rxClr, .rxPush 0, .parse].map
    Instr.row

/-- A word selects a row when `(w and mask) = match` (30_encoding.md R82). -/
def OpcodeRow.selects (r : OpcodeRow) (w : Word) : Bool :=
  w &&& r.mask == r.pattern

/-- A command word is well formed when some row selects it: a defined OPC, RSV = 0, and IMM8 = 0 where there is no
operand (30_encoding.md R82 to R85). -/
def commandWordWellFormed (w : Word) : Bool :=
  opcodeTable.any fun r => r.selects w

/-- The operand byte of a command; 0 where it has none (30_encoding.md R80, R84). -/
def Instr.imm8 : Instr → Byte
  | .nop => 0
  | .errclr => 0
  | .sreset => 0
  | .crcClr => 0
  | .crcByte b => b
  | .frmClr => 0
  | .frmPush b => b
  | .frmBuild => 0
  | .rxClr => 0
  | .rxPush b => b
  | .parse => 0

/-- The word a command line assembles to: `match or IMM8` (30_encoding.md R89). -/
def Instr.assembled (i : Instr) : Word :=
  i.row.pattern ||| i.imm8.setWidth 32

/-- An instruction is well formed when the word it assembles to selects its row. Every IMM8 value is encodable (R83),
so every term of `Instr` is. -/
def Instr.wellFormed (i : Instr) : Bool :=
  i.row.selects i.assembled

/-- A bus access that acts: four bytes at an offset with `off[1:0] = 0` (20_memory.md R63, R67). -/
def Access.wellFormed (a : Access) : Bool :=
  a.size == .four && a.off.extractLsb' 0 2 == 0

end Sys2Proof
end

