-- ==== Sys2Proof/Decode.lean ====
section
/-!
DEFINITION. The decoder of command words, total on every 32-bit word (30_encoding.md R86), and after it the encoder,
written from the format of R80 and the opcode map of R82.
-/

namespace Sys2Proof

/-- `OPC = w[31:24]` (30_encoding.md R81). -/
def opcField (w : Word) : Byte := w.extractLsb' 24 8

/-- `RSV = w[23:8]` (30_encoding.md R81). -/
def rsvField (w : Word) : BitVec 16 := w.extractLsb' 8 16

/-- `IMM8 = w[7:0]` (30_encoding.md R81). -/
def immField (w : Word) : Byte := w.extractLsb' 0 8

/-- The command of a defined operation code, given the operand byte; none for the 245 undefined codes
(30_encoding.md R82, R87). -/
def commandOf (opc imm : Byte) : Option Instr :=
  if opc = 0x00 then some .nop
  else if opc = 0x01 then some .errclr
  else if opc = 0x02 then some .sreset
  else if opc = 0x10 then some .crcClr
  else if opc = 0x11 then some (.crcByte imm)
  else if opc = 0x20 then some .frmClr
  else if opc = 0x21 then some (.frmPush imm)
  else if opc = 0x22 then some .frmBuild
  else if opc = 0x30 then some .rxClr
  else if opc = 0x31 then some (.rxPush imm)
  else if opc = 0x32 then some .parse
  else none

/-- The commands that take IMM8 as operand (30_encoding.md R80). -/
def Instr.hasOperand : Instr → Bool
  | .nop => false
  | .errclr => false
  | .sreset => false
  | .crcClr => false
  | .crcByte _ => true
  | .frmClr => false
  | .frmPush _ => true
  | .frmBuild => false
  | .rxClr => false
  | .rxPush _ => true
  | .parse => false

/-- Decoding, with the checks of `Execute(w)` in the order written: the operation code, RSV, then IMM8 of an
operand-less command (30_encoding.md R86). -/
def decode (w : Word) : Decoded :=
  match commandOf (opcField w) (immField w) with
  | none => .error .illegalOpcode
  | some i =>
    if rsvField w ≠ 0 then .error .reservedNonzero
    else if i.hasOperand = false ∧ immField w ≠ 0 then .error .reservedNonzero
    else .instr i

/-- The operation code of a command (30_encoding.md R82). -/
def Instr.opcode : Instr → Byte
  | .nop => 0x00
  | .errclr => 0x01
  | .sreset => 0x02
  | .crcClr => 0x10
  | .crcByte _ => 0x11
  | .frmClr => 0x20
  | .frmPush _ => 0x21
  | .frmBuild => 0x22
  | .rxClr => 0x30
  | .rxPush _ => 0x31
  | .parse => 0x32

/-- The command word of an instruction: OPC in bits 31 to 24, RSV = 0, IMM8 in bits 7 to 0 (30_encoding.md R80). -/
def encode (i : Instr) : Word :=
  i.opcode ++ (0x0000 : BitVec 16) ++ i.imm8

/-- The instruction the decoder reads from a word of `nbits` bits numbered as spec/opcode_table.json numbers them; a
command is one 32-bit word (30_encoding.md R88), and its bits above `nbits` are 0. -/
def decodeTableWord (nbits w : Nat) : Option Instr :=
  match decode (BitVec.ofNat 32 (w % 2 ^ nbits)) with
  | .instr i => some i
  | .error _ => none

end Sys2Proof
end

