-- ==== Sys2Proof/Config.lean ====
section
/-!
DEFINITION. The implementation parameters of 00_scope.md R7, and the one free value: what the platform answers to an access
made while the hardware reset input is asserted (70_reset_and_hazards.md R232, log 4). `BASE`, which R7 leaves open, is an
argument of `Access.atSystemAddress` (Machine/Bus.lean, log 7).
-/

namespace Sys2Proof.Config

/-- CRC polynomial (R7, `POLY`). -/
abbrev poly : Crc := 0x1021

/-- CRC initial value (R7, `CRCINIT`). -/
abbrev crcInit : Crc := 0x0000

/-- Frame terminator byte (R7, `TERM`). -/
abbrev term : Byte := 0x0D

/-- Payload capacity in bytes (R7, `PCAP`). -/
abbrev pcap : Nat := 32

/-- Frame buffer capacity in bytes (R7, `TXCAP` = PCAP + 3). -/
abbrev txcap : Nat := 35

/-- Raw-response buffer capacity in bytes (R7, `RXCAP`). -/
abbrev rxcap : Nat := 128

/-- Number of surfaced telemetry fields (R7, `NFIELD`). -/
abbrev nfield : Nat := 10

/-- Fewest tokens a valid reply has (R7, `NTOKMIN`). -/
abbrev ntokmin : Nat := 13

/-- Most fraction digits a float field may carry (R7, `SCALEMAX`). -/
abbrev scalemax : Nat := 9

/-- Least significand of a field (R7, significand range). -/
abbrev sigMin : Int := -2147483648

/-- Greatest significand of a field (R7, significand range). -/
abbrev sigMax : Int := 2147483647

/-- What the interconnect answers to the `n`-th answered access, an access made while the hardware reset input is
asserted; `none` when it gives no answer. The spec leaves it to the platform (70_reset_and_hazards.md R232), so nothing
constrains it (DESIGN CHOICE, safe, log 4). -/
opaque answerDuringReset : Nat → Access → Option Response

end Sys2Proof.Config
end

