-- ==== Sys2Proof/Machine/State.lean ====
section
/-!
DEFINITION. The state: every element of 10_state.md R20, the model's own three fields beside it, the reasons a step could
stop (there is none), and the state after reset (R44).
-/

namespace Sys2Proof.Machine

/-- No step of the block stops with a fault: every command completes, a command error is recorded in the state and a bus
error is an answer on the bus (70_reset_and_hazards.md R238, 60_exceptions.md R203, R206; DEDUCED, safe, log 8). The
type has no constructor. -/
inductive Fault where
  deriving DecidableEq, Repr

/-- Why a step could be refused. -/
inductive Refusal where
  /-- `exec` would answer it for an instruction without a meaning; no arm does. Safe. -/
  | notModelled (mnemonic : String)
  deriving DecidableEq, Repr

/-- The block's architectural state, exactly the elements of 10_state.md R20, then the model's own fields `resetLine`,
`inbox` and `outbox` (log 1, log 2, log 3). -/
structure State where
  /-- checksum accumulator -/
  crc : Crc
  /-- command-string bytes of the frame being built -/
  payload : List Byte
  /-- the last built frame -/
  tx : List Byte
  /-- the raw response to be parsed -/
  rx : List Byte
  /-- lossy-decode policy: false REPLACE, true DROP -/
  drop : Bool
  /-- a command error has been recorded since the last clear -/
  err : Bool
  /-- a further command error occurred while `err` was 1 -/
  eovf : Bool
  /-- cause code of the first recorded error -/
  ecause : BitVec 4
  /-- the last PARSE produced a record -/
  valid : Bool
  /-- outcome code of the last PARSE -/
  reason : BitVec 4
  /-- field number whose conversion failed -/
  fidx : BitVec 4
  /-- token count of the last PARSE -/
  ntok : BitVec 8
  /-- significand of each field -/
  fval : Vector (BitVec 32) 10
  /-- number of fraction digits of each field -/
  fscl : Vector (BitVec 4) 10
  /-- the model's own: the hardware reset input is asserted -/
  resetLine : Bool
  /-- the model's own: what has not reached the block yet, oldest first -/
  inbox : List Input
  /-- the model's own: the answers given so far, oldest first -/
  outbox : List Response
  deriving DecidableEq, Repr

/-- The block right after reset: every element at its value of 10_state.md R44. The reset input is released, nothing is
pending and nothing is answered (DESIGN CHOICE, log 1, log 2, log 3). -/
def State.reset : State where
  crc := 0x0000
  payload := []
  tx := []
  rx := []
  drop := false
  err := false
  eovf := false
  ecause := 0
  valid := false
  reason := 0
  fidx := 0
  ntok := 0
  fval := Vector.replicate 10 0
  fscl := Vector.replicate 10 0
  resetLine := false
  inbox := []
  outbox := []

end Sys2Proof.Machine
end

