-- ==== Sys2Proof/Machine/Flags.lean ====
section
/-!
DEFINITION. The flags: the codes recorded in STATUS.ECAUSE and PRES.REASON (60_exceptions.md R200, 10_state.md R33), the flags computed
from buffer lengths (R26), and the words STATUS and PRES (R26, R32).
-/

namespace Sys2Proof

/-- The code of a cause in STATUS.ECAUSE (60_exceptions.md R200). -/
def Cause.code : Cause → BitVec 4
  | .illegalOpcode => 1
  | .reservedNonzero => 2
  | .nonAscii => 3
  | .payloadFull => 4
  | .rxFull => 5

/-- The code of an outcome in PRES.REASON (10_state.md R33). -/
def Reason.code : Reason → BitVec 4
  | .notRun => 0
  | .ok => 1
  | .noStart => 2
  | .fewTokens => 3
  | .notNumeric => 4
  | .outOfRange => 5

namespace Machine

/-- A bit as a number, 1 or 0, in a 32-bit word. -/
def bit (b : Bool) : Word := (BitVec.ofBool b).setWidth 32

/-- STATUS.PFULL: the payload buffer holds PCAP bytes (10_state.md R26). -/
def State.pfull (s : State) : Bool := s.payload.length == Config.pcap

/-- STATUS.RXFULL: the raw-response buffer holds RXCAP bytes (10_state.md R26). -/
def State.rxfull (s : State) : Bool := s.rx.length == Config.rxcap

/-- STATUS.TXV: a frame has been built (10_state.md R26). -/
def State.txv (s : State) : Bool := s.tx.length != 0

/-- The word STATUS reads (10_state.md R26, 20_memory.md R62). -/
def State.statusWord (s : State) : Word :=
  (bit s.txv <<< 10) ||| (bit s.rxfull <<< 9) ||| (bit s.pfull <<< 8) ||| (s.ecause.setWidth 32 <<< 4) |||
    (bit s.eovf <<< 1) ||| bit s.err

/-- The word PRES reads (10_state.md R32, 20_memory.md R62). -/
def State.presWord (s : State) : Word :=
  (s.ntok.setWidth 32 <<< 16) ||| (s.fidx.setWidth 32 <<< 8) ||| (s.reason.setWidth 32 <<< 4) ||| bit s.valid

end Machine

end Sys2Proof
end

