-- ==== Sys2Proof/Machine/Ops.lean ====
section
/-!
DEFINITION. The named operations over the state: one writer per element or group of elements, entering a command error
(60_exceptions.md R202) and returning from it (R204), reset (70_reset_and_hazards.md R231), and what the step does around a
command (taking an input, giving an answer).
-/

namespace Sys2Proof.Machine

/-- `S.crc <- c`. -/
def State.setCrc (s : State) (c : Crc) : State := { s with crc := c }

/-- `S.payload <- p`. -/
def State.setPayload (s : State) (p : List Byte) : State := { s with payload := p }

/-- `S.tx <- t`. -/
def State.setTx (s : State) (t : List Byte) : State := { s with tx := t }

/-- `S.rx <- r`. -/
def State.setRx (s : State) (r : List Byte) : State := { s with rx := r }

/-- `S.drop <- d`. -/
def State.setDrop (s : State) (d : Bool) : State := { s with drop := d }

/-- The PRES fields, as PARSE writes them (43_parser.md R162). -/
def State.setPres (s : State) (valid : Bool) (reason fidx : BitVec 4) (ntok : BitVec 8) : State :=
  { s with valid := valid, reason := reason, fidx := fidx, ntok := ntok }

/-- The field registers, as PARSE writes them: all ten of each (43_parser.md R162). -/
def State.setFields (s : State) (fval : Vector (BitVec 32) 10) (fscl : Vector (BitVec 4) 10) : State :=
  { s with fval := fval, fscl := fscl }

/-- Error entry, `RecordError(c)`: the first error since the last clear sets ERR and the cause, a later one sets EOVF
and keeps the first cause; nothing else is saved (60_exceptions.md R202, R205). -/
def State.recordError (s : State) (c : Cause) : State :=
  if s.err = false then { s with err := true, ecause := c.code } else { s with eovf := true }

/-- Return from an error: the error record is cleared (60_exceptions.md R204, 40_control.md R101). -/
def State.clearError (s : State) : State := { s with err := false, eovf := false, ecause := 0 }

/-- `S <- ResetState`: every element to its value of 10_state.md R44. The model's own fields, which are no element of
the block's state, stay (40_control.md R102, 70_reset_and_hazards.md R231). -/
def State.resetElements (s : State) : State :=
  { State.reset with resetLine := s.resetLine, inbox := s.inbox, outbox := s.outbox }

/-- `raise CmdError(c)`: the command ends with the error record and no other effect (60_exceptions.md R202, R203). -/
def raise (c : Cause) (s : State) : Host.Outcome State Fault Refusal := .next (s.recordError c)

/-- The hardware reset input at a level (70_reset_and_hazards.md R232, log 3). -/
def State.setResetLine (s : State) (b : Bool) : State := { s with resetLine := b }

/-- What is still pending, after the step has taken an input (20_memory.md R69, log 1). -/
def State.setInbox (s : State) (l : List Input) : State := { s with inbox := l }

/-- An answer is given; the answers stand oldest first (20_memory.md R61, log 2). -/
def State.answer (s : State) (r : Response) : State := { s with outbox := s.outbox ++ [r] }

/-- A change made to the next state of an outcome that has one. -/
def mapNext (f : State → State) : Host.Outcome State Fault Refusal → Host.Outcome State Fault Refusal
  | .next t => .next (f t)
  | .fault r => .fault r
  | .refused r => .refused r

end Sys2Proof.Machine
end

