-- ==== Sys2Proof/Machine/Control.lean ====
section
/-!
DEFINITION. The control commands (40_control.md R100 to R102).
-/

namespace Sys2Proof.Machine

/-- NOP: nothing (40_control.md R100). -/
def execNop (s : State) : Host.Outcome State Fault Refusal := .next s

/-- ERRCLR: ERR, EOVF and ECAUSE to 0 (40_control.md R101). -/
def execErrclr (s : State) : Host.Outcome State Fault Refusal := .next s.clearError

/-- SRESET: every element to its reset value (40_control.md R102). -/
def execSreset (s : State) : Host.Outcome State Fault Refusal := .next s.resetElements

end Sys2Proof.Machine
end

