-- ==== Sys2Proof/Machine/Operands.lean ====
section
/-!
DEFINITION. The operand forms. The one operand is IMM8, an unsigned byte that the decoder never extends, scales or shifts
(30_encoding.md R81); a command uses it zero-extended (CRC.BYTE), as a command byte that must be ASCII (FRM.PUSH), or as it
is (RX.PUSH).
-/

namespace Sys2Proof.Machine

/-- `zext_16(b)`: the operand of CRC.BYTE where it is used (30_encoding.md R81, 41_checksum.md R120). -/
def zext16 (b : Byte) : Crc := b.setWidth 16

/-- A byte the framer accepts, at most 0x7F (42_framer.md R142). -/
def isAscii (b : Byte) : Bool := b ≤ 0x7F

end Sys2Proof.Machine
end

