-- ==== Sys2Proof/Machine/Checksum.lean ====
section
/-!
DEFINITION. The Checksum Engine: the checksum function (41_checksum.md R120 to R122) and its two commands (R123, R124).
-/

namespace Sys2Proof.Machine

/-- One turn of the loop of 41_checksum.md R120. On 16 bits the shift discards bit 15, which is the rule's mask
(DEDUCED, safe, log 11). -/
def crcBit (c : Crc) : Crc :=
  if c &&& 0x8000 ≠ 0 then (c <<< 1) ^^^ Config.poly else c <<< 1

/-- The loop of 41_checksum.md R120, run `n` times. -/
def crcBits : Nat → Crc → Crc
  | 0, c => c
  | n + 1, c => crcBits n (crcBit c)

/-- `crc_step(c, b)` (41_checksum.md R120). -/
def crcStep (c : Crc) (b : Byte) : Crc := crcBits 8 (c ^^^ (zext16 b <<< 8))

/-- `crc_step` folded over the bytes of a sequence, in order, from a given value (41_checksum.md R121, R125). -/
def crcFold (c : Crc) (p : List Byte) : Crc := p.foldl crcStep c

/-- `checksum(p)` (41_checksum.md R121). -/
def checksum (p : List Byte) : Crc := crcFold Config.crcInit p

/-- `checksum_bytes(p)`: most significant byte first (41_checksum.md R122). -/
def checksumBytes (p : List Byte) : List Byte :=
  [(checksum p).extractLsb' 8 8, (checksum p).extractLsb' 0 8]

/-- CRC.CLR (41_checksum.md R123). -/
def execCrcClr (s : State) : Host.Outcome State Fault Refusal := .next (s.setCrc 0x0000)

/-- CRC.BYTE (41_checksum.md R124). -/
def execCrcByte (b : Byte) (s : State) : Host.Outcome State Fault Refusal := .next (s.setCrc (crcStep s.crc b))

end Sys2Proof.Machine
end

