-- ==== Sys2Proof/Machine/Framer.lean ====
section
/-!
DEFINITION. The Command Framer: the frame function (42_framer.md R140) and its three commands (R141 to R143).
-/

namespace Sys2Proof.Machine

/-- `frame(p)`: the command bytes, their checksum, the terminator (42_framer.md R140). -/
def frame (p : List Byte) : List Byte := p ++ checksumBytes p ++ [Config.term]

/-- FRM.CLR (42_framer.md R141). -/
def execFrmClr (s : State) : Host.Outcome State Fault Refusal := .next ((s.setPayload []).setTx [])

/-- FRM.PUSH: NON_ASCII is checked first, then PAYLOAD_FULL (42_framer.md R142, 60_exceptions.md R201). -/
def execFrmPush (b : Byte) (s : State) : Host.Outcome State Fault Refusal :=
  if isAscii b = false then raise .nonAscii s
  else if s.payload.length = Config.pcap then raise .payloadFull s
  else .next (s.setPayload (s.payload ++ [b]))

/-- FRM.BUILD: the frame of the payload, its checksum computed from 0x0000 (42_framer.md R143, 41_checksum.md R126). -/
def execFrmBuild (s : State) : Host.Outcome State Fault Refusal := .next (s.setTx (frame s.payload))

end Sys2Proof.Machine
end

