-- ==== Sys2Proof/Machine/Text.lean ====
section
/-!
DEFINITION. The text steps of the parser: lossy decode (43_parser.md R164), strip (R165) and split (R167).
-/

namespace Sys2Proof.Machine

/-- The space that separates tokens, 0x20 (43_parser.md R167). -/
abbrev chrSpace : Chr := .ascii 0x20

/-- `(`, 0x28 (43_parser.md R166). -/
abbrev chrOpen : Chr := .ascii 0x28

/-- `+`, 0x2B (43_parser.md R172). -/
abbrev chrPlus : Chr := .ascii 0x2B

/-- `-`, 0x2D (43_parser.md R172). -/
abbrev chrMinus : Chr := .ascii 0x2D

/-- `.`, 0x2E (43_parser.md R173). -/
abbrev chrDot : Chr := .ascii 0x2E

/-- The characters one byte decodes to: its ASCII character, or REPL, or none under the DROP policy (43_parser.md
R164). -/
def decodeByte (drop : Bool) (b : Byte) : List Chr :=
  if b ≤ 0x7F then [.ascii (b.setWidth 7)] else if drop then [] else [.repl]

/-- `Decode(rx, drop)`: each byte alone, in order (43_parser.md R164). -/
def decodeText (rx : List Byte) (drop : Bool) : List Chr := rx.flatMap (decodeByte drop)

/-- The strip set: NUL, LF and CR (43_parser.md R165). -/
def isStripped (c : Chr) : Bool := c == .ascii 0x00 || c == .ascii 0x0A || c == .ascii 0x0D

/-- The first loop of `Strip(t)`: from the start (43_parser.md R165). -/
def stripStart (t : List Chr) : List Chr := t.dropWhile isStripped

/-- The second loop of `Strip(t)`: from the end (43_parser.md R165). -/
def stripEnd (t : List Chr) : List Chr := (t.reverse.dropWhile isStripped).reverse

/-- `Strip(t)` (43_parser.md R165). -/
def strip (t : List Chr) : List Chr := stripEnd (stripStart t)

/-- One character put before the first token. -/
def consToken (c : Chr) : List (List Chr) → List (List Chr)
  | [] => [[c]]
  | tok :: toks => (c :: tok) :: toks

/-- `Split(u)`: every space ends a token, so `m` spaces give `m + 1` tokens (43_parser.md R167). -/
def split : List Chr → List (List Chr)
  | [] => [[]]
  | c :: u => if c = chrSpace then [] :: split u else consToken c (split u)

end Sys2Proof.Machine
end

