-- ==== Sys2Proof/Machine/Number.lean ====
section
/-!
DEFINITION. Token conversion: the grammars INT and FLOAT, the exact decimal value, the range and precision checks
(43_parser.md R171 to R173).
-/

namespace Sys2Proof.Machine

/-- The value of a digit character `0` to `9`; none for any other character (43_parser.md R172). -/
def digitValue : Chr → Option Nat
  | .ascii c => if 0x30 ≤ c ∧ c ≤ 0x39 then some (c.toNat - 0x30) else none
  | .repl => none

/-- The values of a list of digit characters; none when one of them is no digit. -/
def digits : List Chr → Option (List Nat)
  | [] => some []
  | c :: cs =>
    match digitValue c, digits cs with
    | some d, some ds => some (d :: ds)
    | _, _ => none

/-- `decimal(d)`: each digit times its power of ten, exact and unbounded (43_parser.md R172). -/
def decimal : List Nat → Nat
  | [] => 0
  | d :: ds => d * 10 ^ ds.length + decimal ds

/-- `SIGN?`: whether the token begins with `-`, and what follows the sign (43_parser.md R172). -/
def splitSign : List Chr → Bool × List Chr
  | [] => (false, [])
  | c :: cs => if c = chrMinus then (true, cs) else if c = chrPlus then (false, cs) else (false, c :: cs)

/-- The exact value with its sign (43_parser.md R172, R173). -/
def signed (neg : Bool) (n : Nat) : Int := if neg then -(n : Int) else (n : Int)

/-- The magnitude check: a significand outside `−2^31 … 2^31−1` is refused, never wrapped (43_parser.md R172, R173,
40_control.md R103). -/
def ranged (v : Int) (scl : Nat) : Converted :=
  if v < Config.sigMin ∨ v > Config.sigMax then .fail .outOfRange else .value v scl

/-- `ConvInt(tok)`: `SIGN? DIGIT+` (43_parser.md R172). -/
def convInt (tok : List Chr) : Converted :=
  match digits (splitSign tok).2 with
  | none => .fail .notNumeric
  | some [] => .fail .notNumeric
  | some (d :: ds) => ranged (signed (splitSign tok).1 (decimal (d :: ds))) 0

/-- What stands before the first `.`, and what stands after it when there is one. -/
def splitDot : List Chr → List Chr × Option (List Chr)
  | [] => ([], none)
  | c :: cs => if c = chrDot then ([], some cs) else (c :: (splitDot cs).1, (splitDot cs).2)

/-- The digits before and after the `.` of `DIGIT+ ('.' DIGIT*)? | '.' DIGIT+`; none when the characters do not match
(43_parser.md R173). -/
def floatParts (cs : List Chr) : Option (List Nat × List Nat) :=
  match digits (splitDot cs).1, digits ((splitDot cs).2.getD []) with
  | some whole, some frac => if whole = [] ∧ frac = [] then none else some (whole, frac)
  | _, _ => none

/-- `ConvFloat(tok)`: grammar, then precision, then magnitude (43_parser.md R173, R175). -/
def convFloat (tok : List Chr) : Converted :=
  match floatParts (splitSign tok).2 with
  | none => .fail .notNumeric
  | some (whole, frac) =>
    if frac.length > Config.scalemax then .fail .outOfRange
    else ranged (signed (splitSign tok).1 (decimal (whole ++ frac))) frac.length

/-- The conversion a field's type asks for (43_parser.md R169). -/
def convert : FieldType → List Chr → Converted
  | .integer, tok => convInt tok
  | .float, tok => convFloat tok

end Sys2Proof.Machine
end

