-- ==== Sys2Proof/Machine/Parser.lean ====
section
/-!
DEFINITION. The Response Parser: the field schema (10_state.md R36), the parse function (43_parser.md R174) and the three
commands (R160 to R162).
-/

namespace Sys2Proof.Machine

/-- `SCHEMA[k]`: the token index and the type of each field (10_state.md R36). -/
def schema : Vector (Nat × FieldType) 10 :=
  #v[(0, .float), (1, .float), (2, .float), (3, .float), (4, .integer), (5, .integer), (8, .float), (9, .integer),
     (10, .float), (12, .integer)]

/-- The token a field takes, by its index (43_parser.md R169). -/
def fieldToken (toks : List (List Chr)) (k : Fin 10) : List Chr := toks.getD (schema[k]).1 []

/-- The conversion of a field's token by the field's type (43_parser.md R169). -/
def convField (toks : List (List Chr)) (k : Fin 10) : Converted := convert (schema[k]).2 (fieldToken toks k)

/-- The ten fields in ascending order (43_parser.md R174). -/
def fieldOrder : List (Fin 10) := [0, 1, 2, 3, 4, 5, 6, 7, 8, 9]

/-- The first field of a list whose conversion fails, with the cause: where the loop of 43_parser.md R174 returns. -/
def firstFailure (toks : List (List Chr)) : List (Fin 10) → Option (Fin 10 × Reason)
  | [] => none
  | k :: ks =>
    match convField toks k with
    | .fail c => some (k, c)
    | .value _ _ => firstFailure toks ks

/-- The significand and the scale of a converted field; `(0, 0)` for a field that failed, which no record holds. -/
def pairOf : Converted → Int × Nat
  | .value sig scl => (sig, scl)
  | .fail _ => (0, 0)

/-- What a parse returns: RECORD with `valid = 1`, or EMPTY with `valid = 0` (43_parser.md R174). The fields of an EMPTY
are never read (R162). -/
structure ParseResult where
  valid : Bool
  reason : Reason
  fidx : Nat
  ntok : Nat
  fields : Vector (Int × Nat) 10
  deriving DecidableEq, Repr

/-- `EMPTY(reason, fidx, ntok)` (43_parser.md R174). -/
def emptyResult (reason : Reason) (fidx ntok : Nat) : ParseResult :=
  { valid := false, reason := reason, fidx := fidx, ntok := ntok, fields := Vector.replicate 10 (0, 0) }

/-- `RECORD(OK, 0, ntok, sig, scl)` (43_parser.md R174). -/
def recordResult (toks : List (List Chr)) : ParseResult :=
  { valid := true, reason := .ok, fidx := 0, ntok := toks.length,
    fields := Vector.ofFn fun k => pairOf (convField toks k) }

/-- The tail of `Parse` once the text is split: the token count, then the fields (43_parser.md R168, R169, R174). -/
def parseTokens (toks : List (List Chr)) : ParseResult :=
  if toks.length < Config.ntokmin then emptyResult .fewTokens 0 toks.length
  else
    match firstFailure toks fieldOrder with
    | some (k, c) => emptyResult c k.val toks.length
    | none => recordResult toks

/-- `Parse` of a stripped text: the start check, then the tokens (43_parser.md R166, R167, R174). -/
def parseText : List Chr → ParseResult
  | [] => emptyResult .noStart 0 0
  | c :: u => if c = chrOpen then parseTokens (split u) else emptyResult .noStart 0 0

/-- `Parse(rx, drop)` (43_parser.md R174). -/
def parse (rx : List Byte) (drop : Bool) : ParseResult := parseText (strip (decodeText rx drop))

/-- The significands PARSE writes: the record's, or zeros on EMPTY (43_parser.md R162). -/
def ParseResult.fvals (r : ParseResult) : Vector (BitVec 32) 10 :=
  if r.valid then Vector.ofFn fun k => BitVec.ofInt 32 (r.fields[k]).1 else Vector.replicate 10 0

/-- The scales PARSE writes: the record's, or zeros on EMPTY (43_parser.md R162). -/
def ParseResult.fscls (r : ParseResult) : Vector (BitVec 4) 10 :=
  if r.valid then Vector.ofFn fun k => BitVec.ofNat 4 (r.fields[k]).2 else Vector.replicate 10 0

/-- What PARSE writes: the PRES fields and all ten field registers, every time (43_parser.md R162, R176). -/
def State.setParse (s : State) (r : ParseResult) : State :=
  (s.setPres r.valid r.reason.code (BitVec.ofNat 4 r.fidx) (BitVec.ofNat 8 r.ntok)).setFields r.fvals r.fscls

/-- RX.CLR (43_parser.md R160). -/
def execRxClr (s : State) : Host.Outcome State Fault Refusal := .next (s.setRx [])

/-- RX.PUSH (43_parser.md R161). -/
def execRxPush (b : Byte) (s : State) : Host.Outcome State Fault Refusal :=
  if s.rx.length = Config.rxcap then raise .rxFull s else .next (s.setRx (s.rx ++ [b]))

/-- PARSE (43_parser.md R162). -/
def execParse (s : State) : Host.Outcome State Fault Refusal := .next (s.setParse (parse s.rx s.drop))

end Sys2Proof.Machine
end

