-- ==== Sys2Proof/Machine/Dispatch.lean ====
section
/-!
DEFINITION. One arm per command, each one call of its meaning (30_encoding.md R86).
-/

namespace Sys2Proof.Machine

def exec (i : Instr) (s : State) : Host.Outcome State Fault Refusal :=
  match i with
  | .nop => Sys2Proof.Machine.execNop s
  | .errclr => Sys2Proof.Machine.execErrclr s
  | .sreset => Sys2Proof.Machine.execSreset s
  | .crcClr => Sys2Proof.Machine.execCrcClr s
  | .crcByte b => Sys2Proof.Machine.execCrcByte b s
  | .frmClr => Sys2Proof.Machine.execFrmClr s
  | .frmPush b => Sys2Proof.Machine.execFrmPush b s
  | .frmBuild => Sys2Proof.Machine.execFrmBuild s
  | .rxClr => Sys2Proof.Machine.execRxClr s
  | .rxPush b => Sys2Proof.Machine.execRxPush b s
  | .parse => Sys2Proof.Machine.execParse s

end Sys2Proof.Machine
end

