-- ==== Sys2Proof/Machine/Bus.lean ====
section
/-!
DEFINITION. The bus port: the register map (10_state.md R22), reads (20_memory.md R62, R65), writes (R64) with the execution
of a command word (30_encoding.md R86), the access rules (R63), and the other inputs, reset and power-up
(70_reset_and_hazards.md R230 to R232).
-/

namespace Sys2Proof.Machine

/-- The register, window word or reserved offset at an aligned offset, the offset as a number (10_state.md R22). -/
def regAtNat (o : Nat) : Reg :=
  if o = 0x000 then .id
  else if o = 0x004 then .caps
  else if o = 0x008 then .ctrl
  else if o = 0x00C then .status
  else if o = 0x010 then .cmd
  else if o = 0x014 then .crc
  else if o = 0x018 then .plen
  else if o = 0x01C then .txlen
  else if o = 0x020 then .rxlen
  else if o = 0x024 then .pres
  else if h : 0x040 ≤ o ∧ o < 0x068 then .fval ⟨(o - 0x040) / 4, by omega⟩
  else if h : 0x080 ≤ o ∧ o < 0x0A8 then .fscl ⟨(o - 0x080) / 4, by omega⟩
  else if h : 0x100 ≤ o ∧ o < 0x200 then .txwin ⟨(o - 0x100) / 4, by omega⟩
  else if h : 0x200 ≤ o ∧ o < 0x300 then .rxwin ⟨(o - 0x200) / 4, by omega⟩
  else .reserved

/-- The register, window word or reserved offset at an aligned offset (10_state.md R22). -/
def regAt (off : Offset) : Reg := regAtNat off.toNat

/-- The offset of a register or window word; none for the reserved offsets, which have no one offset (10_state.md
R22). -/
def regOffset : Reg → Option Offset
  | .id => some 0x000
  | .caps => some 0x004
  | .ctrl => some 0x008
  | .status => some 0x00C
  | .cmd => some 0x010
  | .crc => some 0x014
  | .plen => some 0x018
  | .txlen => some 0x01C
  | .rxlen => some 0x020
  | .pres => some 0x024
  | .fval k => some (BitVec.ofNat 12 (0x040 + 4 * k.val))
  | .fscl k => some (BitVec.ofNat 12 (0x080 + 4 * k.val))
  | .txwin j => some (BitVec.ofNat 12 (0x100 + 4 * j.val))
  | .rxwin j => some (BitVec.ofNat 12 (0x200 + 4 * j.val))
  | .reserved => none

/-- The value of ID (10_state.md R23). -/
def idWord : Word := 0x45504531

/-- The value of CAPS: PCAP, TXCAP, RXCAP and NFIELD, a byte each from the least significant (10_state.md R24). -/
def capsWord : Word :=
  BitVec.ofNat 8 Config.nfield ++ BitVec.ofNat 8 Config.rxcap ++ BitVec.ofNat 8 Config.txcap ++ BitVec.ofNat 8 Config.pcap

/-- `B(buf, i)`: a window byte, 0 past the buffer's length (20_memory.md R65, 10_state.md R37, R38). -/
def windowByte (buf : List Byte) (i : Nat) : Byte := buf.getD i 0

/-- `WinWord(buf, o)`: little-endian (20_memory.md R65). -/
def winWord (buf : List Byte) (o : Nat) : Word :=
  (windowByte buf o).setWidth 32 ||| ((windowByte buf (o + 1)).setWidth 32 <<< 8) |||
    ((windowByte buf (o + 2)).setWidth 32 <<< 16) ||| ((windowByte buf (o + 3)).setWidth 32 <<< 24)

/-- The value of a register or window word (20_memory.md R62). -/
def readReg (r : Reg) (s : State) : Word :=
  match r with
  | .id => idWord
  | .caps => capsWord
  | .ctrl => bit s.drop
  | .status => s.statusWord
  | .cmd => 0
  | .crc => s.crc.setWidth 32
  | .plen => BitVec.ofNat 32 s.payload.length
  | .txlen => BitVec.ofNat 32 s.tx.length
  | .rxlen => BitVec.ofNat 32 s.rx.length
  | .pres => s.presWord
  | .fval k => s.fval[k]
  | .fscl k => (s.fscl[k]).setWidth 32
  | .txwin j => winWord s.tx (4 * j.val)
  | .rxwin j => winWord s.rx (4 * j.val)
  | .reserved => 0

/-- `MemRead(off, 4)` at an aligned offset (20_memory.md R62). -/
def memRead (off : Offset) (s : State) : Word := readReg (regAt off) s

/-- `Execute(w)`: the command the word decodes to, or the error record (30_encoding.md R86). -/
def execute (w : Word) (s : State) : Host.Outcome State Fault Refusal :=
  match decode w with
  | .instr i => exec i s
  | .error c => raise c s

/-- A write of a register or window word: CTRL stores its one bit, CMD executes a command word, every other write is
ignored (20_memory.md R64, 10_state.md R25). -/
def writeReg (r : Reg) (v : Word) (s : State) : Host.Outcome State Fault Refusal :=
  match r with
  | .ctrl => .next (s.setDrop (v.getLsbD 0))
  | .cmd => execute v s
  | .id => .next s
  | .caps => .next s
  | .status => .next s
  | .crc => .next s
  | .plen => .next s
  | .txlen => .next s
  | .rxlen => .next s
  | .pres => .next s
  | .fval _ => .next s
  | .fscl _ => .next s
  | .txwin _ => .next s
  | .rxwin _ => .next s
  | .reserved => .next s

/-- `MemWrite(off, 4, v)` at an aligned offset (20_memory.md R64). -/
def memWrite (off : Offset) (v : Word) (s : State) : Host.Outcome State Fault Refusal := writeReg (regAt off) v s

/-- The answer to an access that breaks 20_memory.md R63: BusError, and read data 0 for a read. -/
def busErrorAnswer : BusOp → Response
  | .read => ⟨.busError, some 0⟩
  | .write _ => ⟨.busError, none⟩

/-- A bus access the block accepts: its effect on the state, then its answer (20_memory.md R61 to R64). -/
def runAccess (a : Access) (s : State) : Host.Outcome State Fault Refusal :=
  if a.wellFormed = false then .next (s.answer (busErrorAnswer a.op))
  else
    match a.op with
    | .read => .next (s.answer ⟨.ok, some (memRead a.off s)⟩)
    | .write v => mapNext (fun t => t.answer ⟨.ok, none⟩) (memWrite a.off v s)

/-- An access while the hardware reset input is asserted: the block does not accept it, and what it is answered is the
platform's (70_reset_and_hazards.md R232; DESIGN CHOICE, safe, log 4). -/
def turnAway (a : Access) (s : State) : State :=
  match Config.answerDuringReset s.outbox.length a with
  | some r => s.answer r
  | none => s

/-- What one input does: an access acts unless the reset input is asserted; asserting the reset input and power-up set
every element to its reset value; releasing the reset input lets accesses in again (70_reset_and_hazards.md R230 to R232;
log 3, log 5). -/
def takeInput (x : Input) (s : State) : Host.Outcome State Fault Refusal :=
  match x with
  | .access a => if s.resetLine then .next (turnAway a s) else runAccess a s
  | .resetAssert => .next (s.resetElements.setResetLine true)
  | .resetRelease => .next (s.setResetLine false)
  | .powerUp => .next s.resetElements

/-- The write that executes a command word: four bytes at CMD, offset 0x010 (30_encoding.md R80). -/
def cmdWrite (w : Word) : Access := { op := .write w, off := 0x010, size := .four }

/-- The access a bus master makes at a system address, when the address lies in the block's window of 4096 byte offsets
at `base`; none when it lies outside, so that the block sees no access (20_memory.md R60, R73; log 7). -/
def Access.atSystemAddress (base addr : Nat) (op : BusOp) (size : AccessSize) : Option Access :=
  if base ≤ addr ∧ addr < base + 4096 then some { op := op, off := BitVec.ofNat 12 (addr - base), size := size }
  else none

end Sys2Proof.Machine
end

