-- ==== Sys2Proof/Machine/Step.lean ====
section
/-!
DEFINITION. The step: the block takes the oldest pending input, and its whole effect is done before the next (20_memory.md
R69, 70_reset_and_hazards.md R235).
-/

namespace Sys2Proof.Machine

/-- One step: one input, taken whole. With nothing pending the block holds its state (70_reset_and_hazards.md R241,
60_exceptions.md R215; log 6). -/
def step (s : State) : Host.Outcome State Fault Refusal :=
  match s.inbox with
  | [] => .next s
  | x :: rest => mapNext (fun t => t.setInbox rest) (takeInput x s)

/-- The state in which the very next step executes the command word `w`: the reset input released, and the write of `w`
to CMD the oldest pending access (30_encoding.md R80, log 1). -/
def State.withFetchWord (s : State) (nbits w : Nat) : State :=
  { s with resetLine := false, inbox := .access (cmdWrite (BitVec.ofNat 32 (w % 2 ^ nbits))) :: s.inbox }

end Sys2Proof.Machine
end

