-- ==== Sys2Proof/Machine/Assembler.lean ====
section
/-!
DEFINITION. The command-program syntax: the bus access each line denotes (30_encoding.md R89), the expansion of the
pseudo-instructions (R90), and the reading of a line's text. What R89 and R90 leave open about the text (spacing, case, an
unknown escape) is fixed here (DESIGN CHOICE, log 15); nothing of the machine's step depends on it.
-/

namespace Sys2Proof.Machine

/-- The bus access a line denotes: a command line one write of its word to CMD, WR and RD one write or read of the named
register; none for a reserved offset, which has no name (30_encoding.md R89). -/
def lineAccess : Line → Option Access
  | .command i => some (cmdWrite i.assembled)
  | .wr r v => (regOffset r).map fun off => { op := .write v, off := off, size := .four }
  | .rd r => (regOffset r).map fun off => { op := .read, off := off, size := .four }

/-- The accesses of a program, in line order (30_encoding.md R89, 10_state.md R40). -/
def programInputs (ls : List Line) : List Input := ls.filterMap fun l => (lineAccess l).map Input.access

/-- The writes of a list of commands to CMD, in order. -/
def commandInputs (is : List Instr) : List Input := is.map fun i => Input.access (cmdWrite (encode i))

/-- The command lines a pseudo-instruction stands for (30_encoding.md R90). -/
def expand : Pseudo → List Instr
  | .crcstr s => .crcClr :: s.map Instr.crcByte
  | .frame s => .frmClr :: s.map Instr.frmPush ++ [.frmBuild]
  | .rxbytes bs => .rxClr :: bs.map Instr.rxPush
  | .rxstr s => .rxClr :: s.map Instr.rxPush

/-- The tokens of a line's text. -/
inductive Tok where
  | name (cs : List Char)
  | char (c : Char)
  | str (cs : List Char)
  | comma
  | opening
  | closing
  deriving DecidableEq, Repr

/-- Where the reading of a line stands; the characters read so far stand newest first. -/
inductive LexMode where
  | idle
  | inName (acc : List Char)
  | quoteOpen
  | quoteChar (c : Char)
  | inStr (acc : List Char)
  | inComment
  deriving DecidableEq, Repr

/-- A printable ASCII character, the operand of a character literal (30_encoding.md R89). -/
def printable (c : Char) : Bool := 0x20 ≤ c.toNat && c.toNat ≤ 0x7E

/-- One character read outside names, literals, strings and comments. -/
def lexIdle (c : Char) : Option (LexMode × List Tok) :=
  if c = ' ' ∨ c = '\t' then some (.idle, [])
  else if c = ';' then some (.inComment, [])
  else if c = '\'' then some (.quoteOpen, [])
  else if c = '"' then some (.inStr [], [])
  else if c = ',' then some (.idle, [.comma])
  else if c = '[' then some (.idle, [.opening])
  else if c = ']' then some (.idle, [.closing])
  else if c.isAlphanum ∨ c = '.' then some (.inName [c], [])
  else none

/-- One character read: the new place and the tokens it completes; none where it cannot stand. -/
def lexChar (m : LexMode) (c : Char) : Option (LexMode × List Tok) :=
  match m with
  | .idle => lexIdle c
  | .inName acc =>
    if c.isAlphanum ∨ c = '.' then some (.inName (c :: acc), [])
    else (lexIdle c).map fun r => (r.1, .name acc.reverse :: r.2)
  | .quoteOpen => if printable c then some (.quoteChar c, []) else none
  | .quoteChar d => if c = '\'' then some (.idle, [.char d]) else none
  | .inStr acc => if c = '"' then some (.idle, [.str acc.reverse]) else some (.inStr (c :: acc), [])
  | .inComment => some (.inComment, [])

/-- The tokens of a line's text, `;` starting a comment (30_encoding.md R89). -/
def lex (m : LexMode) : List Char → Option (List Tok)
  | [] =>
    match m with
    | .idle => some []
    | .inName acc => some [.name acc.reverse]
    | .inComment => some []
    | .quoteOpen => none
    | .quoteChar _ => none
    | .inStr _ => none
  | c :: cs =>
    match lexChar m c with
    | none => none
    | some (m', ts) => (lex m' cs).map fun rest => ts ++ rest

/-- The value of a digit in base 10 or 16. -/
def baseDigit (base : Nat) (c : Char) : Option Nat :=
  let n := c.toNat
  let v :=
    if 0x30 ≤ n ∧ n ≤ 0x39 then some (n - 0x30)
    else if 0x41 ≤ n ∧ n ≤ 0x46 then some (n - 0x41 + 10)
    else if 0x61 ≤ n ∧ n ≤ 0x66 then some (n - 0x61 + 10)
    else none
  v.filter fun d => d < base

/-- A nonempty run of digits in a base, most significant first, from an accumulated value. -/
def baseNumber (base : Nat) (acc : Nat) : List Char → Option Nat
  | [] => none
  | [c] => (baseDigit base c).map fun d => acc * base + d
  | c :: cs =>
    match baseDigit base c with
    | none => none
    | some d => baseNumber base (acc * base + d) cs

/-- A numeral: decimal, or hexadecimal with `0x` (30_encoding.md R89). -/
def numeral : List Char → Option Nat
  | '0' :: 'x' :: cs => baseNumber 16 0 cs
  | cs => baseNumber 10 0 cs

/-- A byte operand: a numeral 0 to 255 or a character literal (30_encoding.md R89, R81). -/
def byteOperand : Tok → Option Byte
  | .name cs => ((numeral cs).filter fun n => n ≤ 255).map fun n => BitVec.ofNat 8 n
  | .char c => some (BitVec.ofNat 8 c.toNat)
  | .str _ => none
  | .comma => none
  | .opening => none
  | .closing => none

/-- The bytes of an operand string without escapes: its ASCII codes (00_scope.md R10). -/
def plainBytes : List Char → Option (List Byte)
  | [] => some []
  | c :: cs => if c.toNat ≤ 0x7F then (plainBytes cs).map fun bs => BitVec.ofNat 8 c.toNat :: bs else none

/-- The bytes of an RXSTR operand, with the escapes of 30_encoding.md R90. -/
def escapedBytes : List Char → Option (List Byte)
  | [] => some []
  | '\\' :: 'r' :: cs => (escapedBytes cs).map fun bs => 0x0D :: bs
  | '\\' :: 'n' :: cs => (escapedBytes cs).map fun bs => 0x0A :: bs
  | '\\' :: '0' :: cs => (escapedBytes cs).map fun bs => 0x00 :: bs
  | '\\' :: 'x' :: a :: b :: cs =>
    match baseNumber 16 0 [a, b], escapedBytes cs with
    | some n, some bs => some (BitVec.ofNat 8 n :: bs)
    | _, _ => none
  | c :: cs =>
    if c.toNat ≤ 0x7F ∧ c ≠ '\\' then (escapedBytes cs).map fun bs => BitVec.ofNat 8 c.toNat :: bs else none

/-- The bytes of an RXBYTES operand list, separated by commas (30_encoding.md R90). -/
def byteList : List Tok → Option (List Byte)
  | [] => none
  | [t] => (byteOperand t).map fun b => [b]
  | t :: .comma :: ts =>
    match byteOperand t, byteList ts with
    | some b, some bs => some (b :: bs)
    | _, _ => none
  | _ :: _ :: _ => none

/-- The command of a mnemonic without operand (30_encoding.md R82). -/
def plainMnemonic (m : List Char) : Option Instr :=
  if m = "NOP".toList then some .nop
  else if m = "ERRCLR".toList then some .errclr
  else if m = "SRESET".toList then some .sreset
  else if m = "CRC.CLR".toList then some .crcClr
  else if m = "FRM.CLR".toList then some .frmClr
  else if m = "FRM.BUILD".toList then some .frmBuild
  else if m = "RX.CLR".toList then some .rxClr
  else if m = "PARSE".toList then some .parse
  else none

/-- The command of a mnemonic with its operand byte (30_encoding.md R82). -/
def operandMnemonic (m : List Char) (b : Byte) : Option Instr :=
  if m = "CRC.BYTE".toList then some (.crcByte b)
  else if m = "FRM.PUSH".toList then some (.frmPush b)
  else if m = "RX.PUSH".toList then some (.rxPush b)
  else none

/-- A register named without an index (10_state.md R22). -/
def plainReg (m : List Char) : Option Reg :=
  if m = "ID".toList then some .id
  else if m = "CAPS".toList then some .caps
  else if m = "CTRL".toList then some .ctrl
  else if m = "STATUS".toList then some .status
  else if m = "CMD".toList then some .cmd
  else if m = "CRC".toList then some .crc
  else if m = "PLEN".toList then some .plen
  else if m = "TXLEN".toList then some .txlen
  else if m = "RXLEN".toList then some .rxlen
  else if m = "PRES".toList then some .pres
  else none

/-- A register or window word named with an index (30_encoding.md R89). -/
def indexedReg (m : List Char) (k : Nat) : Option Reg :=
  if m = "FVAL".toList then if h : k < 10 then some (.fval ⟨k, h⟩) else none
  else if m = "FSCL".toList then if h : k < 10 then some (.fscl ⟨k, h⟩) else none
  else if m = "TXWIN".toList then if h : k < 64 then some (.txwin ⟨k, h⟩) else none
  else if m = "RXWIN".toList then if h : k < 64 then some (.rxwin ⟨k, h⟩) else none
  else none

/-- A register's name at the head of a token list, and what follows it. -/
def regOperand : List Tok → Option (Reg × List Tok)
  | .name m :: .opening :: .name k :: .closing :: rest =>
    match numeral k with
    | some n => (indexedReg m n).map fun r => (r, rest)
    | none => none
  | .name m :: rest => (plainReg m).map fun r => (r, rest)
  | _ => none

/-- The `<value>` of a `WR` line: a decimal or `0x` numeral below 2^32, and nothing else. R89 gives it no form: its operand
grammar is that of the three commands with an operand (DESIGN CHOICE, log 15). -/
def wordOperand : List Tok → Option Word
  | [.comma, .name v] => ((numeral v).filter fun n => n < 2 ^ 32).map fun n => BitVec.ofNat 32 n
  | _ => none

/-- The pseudo-instruction of a name with its operand string (30_encoding.md R90). -/
def stringPseudo (m s : List Char) : Option Pseudo :=
  if m = "CRCSTR".toList then (plainBytes s).map Pseudo.crcstr
  else if m = "FRAME".toList then (plainBytes s).map Pseudo.frame
  else if m = "RXSTR".toList then (escapedBytes s).map Pseudo.rxstr
  else none

/-- The lines a token list denotes: none of them for a blank line, one for a command, `WR` or `RD` line, the expansion for
a pseudo-instruction (30_encoding.md R89, R90). -/
def readLine : List Tok → Option (List Line)
  | [] => some []
  | [.name m] => (plainMnemonic m).map fun i => [.command i]
  | [.name m, .str s] => (stringPseudo m s).map fun p => (expand p).map Line.command
  | .name m :: ts =>
    if m = "WR".toList then
      match regOperand ts with
      | some (r, rest) => (wordOperand rest).map fun v => [.wr r v]
      | none => none
    else if m = "RD".toList then
      match regOperand ts with
      | some (r, []) => some [.rd r]
      | _ => none
    else if m = "RXBYTES".toList then (byteList ts).map fun bs => (expand (.rxbytes bs)).map Line.command
    else
      match ts with
      | [t] =>
        match byteOperand t with
        | some b => (operandMnemonic m b).map fun i => [.command i]
        | none => none
      | _ => none
  | _ => none

/-- The lines one line of program text denotes; none where the text is no line of 30_encoding.md R89 or R90. -/
def assembleLine (text : List Char) : Option (List Line) :=
  match lex .idle text with
  | some ts => readLine ts
  | none => none

/-- The lines of a program text, given line by line, in order (30_encoding.md R89). -/
def assembleProgram : List (List Char) → Option (List Line)
  | [] => some []
  | text :: texts =>
    match assembleLine text, assembleProgram texts with
    | some ls, some rest => some (ls ++ rest)
    | _, _ => none

end Sys2Proof.Machine
end

