-- ==== Sys2Proof/Safety.lean ====
section
/-!
DEFINITION. The terms the statements use: which states are legal (10_state.md R43 and the ranges of R26, R30, R32), when two states agree on the
block's elements (R20), and running a list of commands.
-/

namespace Sys2Proof.Machine

/-- Two states agree on every element of 10_state.md R20; the model's own fields may differ. -/
abbrev State.sameElements (s t : State) : Prop :=
  s.crc = t.crc ∧ s.payload = t.payload ∧ s.tx = t.tx ∧ s.rx = t.rx ∧ s.drop = t.drop ∧ s.err = t.err ∧
    s.eovf = t.eovf ∧ s.ecause = t.ecause ∧ s.valid = t.valid ∧ s.reason = t.reason ∧ s.fidx = t.fidx ∧
    s.ntok = t.ntok ∧ s.fval = t.fval ∧ s.fscl = t.fscl

/-- Every byte of a sequence is at most 0x7F. -/
abbrev allAscii (p : List Byte) : Prop := ∀ b ∈ p, b ≤ 0x7F

/-- 10_state.md R43, item 1: the buffers' lengths. -/
abbrev State.buffersBounded (s : State) : Prop :=
  s.payload.length ≤ 32 ∧ s.rx.length ≤ 128 ∧ (s.tx.length = 0 ∨ 3 ≤ s.tx.length ∧ s.tx.length ≤ 35)

/-- 10_state.md R43, items 2 and 3: a built frame is the frame of ASCII bytes. -/
abbrev State.frameLegal (s : State) : Prop :=
  s.tx.length = 0 ∨ 3 ≤ s.tx.length ∧ s.tx = frame (s.tx.take (s.tx.length - 3)) ∧
    allAscii (s.tx.take (s.tx.length - 3))

/-- The payload holds only bytes the framer accepts (42_framer.md R142, R143). -/
abbrev State.payloadLegal (s : State) : Prop := allAscii s.payload

/-- 10_state.md R43, item 7: the error record. -/
abbrev State.errorLegal (s : State) : Prop :=
  (s.err = false → s.eovf = false ∧ s.ecause = 0) ∧ (s.err = true → 1 ≤ s.ecause ∧ s.ecause ≤ 5)

/-- 10_state.md R43, item 4, with the ranges of R32 and R33: the parse result. -/
abbrev State.resultLegal (s : State) : Prop :=
  (s.valid = true ↔ s.reason = 1) ∧ s.reason ≤ 5 ∧ s.ntok ≤ 128 ∧
    (s.reason = 4 ∨ s.reason = 5 → s.fidx ≤ 9) ∧ (s.reason ≠ 4 → s.reason ≠ 5 → s.fidx = 0) ∧
    (s.reason = 0 ∨ s.reason = 2 → s.ntok = 0) ∧ (s.reason = 3 → 1 ≤ s.ntok ∧ s.ntok < 13) ∧
    (s.reason = 1 ∨ s.reason = 4 ∨ s.reason = 5 → 13 ≤ s.ntok)

/-- 10_state.md R43, items 5 and 6: the field registers. -/
abbrev State.fieldsLegal (s : State) : Prop :=
  (s.valid = false → ∀ k : Fin 10, s.fval[k] = 0 ∧ s.fscl[k] = 0) ∧ (∀ k : Fin 10, s.fscl[k] ≤ 9) ∧
    s.fscl[4] = 0 ∧ s.fscl[5] = 0 ∧ s.fscl[7] = 0 ∧ s.fscl[9] = 0

/-- While the hardware reset input is asserted every element is at its reset value (70_reset_and_hazards.md R231, R232;
log 3). -/
abbrev State.resetHeld (s : State) : Prop := s.resetLine = true → s.sameElements State.reset

/-- The legal states: the seven invariants of 10_state.md R43, the ranges of R32 and R33, and that an asserted reset input
holds the block at its reset values. -/
structure State.Legal (s : State) : Prop where
  buffers : s.buffersBounded
  frames : s.frameLegal
  payloads : s.payloadLegal
  errors : s.errorLegal
  results : s.resultLegal
  fields : s.fieldsLegal
  resetHeld : s.resetHeld

/-- Every element at the value 10_state.md R44 lists. -/
abbrev State.atResetValues (s : State) : Prop :=
  s.crc = 0x0000 ∧ s.payload = [] ∧ s.tx = [] ∧ s.rx = [] ∧ s.drop = false ∧ (s.err = false ∧ s.eovf = false ∧ s.ecause = 0) ∧
    (s.valid = false ∧ s.reason = 0 ∧ s.fidx = 0 ∧ s.ntok = 0) ∧ ∀ k : Fin 10, s.fval[k] = 0 ∧ s.fscl[k] = 0

/-- An offset with `off[1:0] = 0` (20_memory.md R62 to R64). -/
abbrev aligned (off : Offset) : Prop := off.extractLsb' 0 2 = 0

/-- The character of a decimal digit (43_parser.md R172). -/
def digitChr (d : Fin 10) : Chr := .ascii (BitVec.ofNat 7 (0x30 + d.val))

/-- `SIGN?` of 43_parser.md R172. -/
abbrev isSign (sign : List Chr) : Prop := sign = [] ∨ sign = [chrPlus] ∨ sign = [chrMinus]

/-- The sum of 43_parser.md R172 that gives a digit string's value. -/
def decimalSum (ds : List (Fin 10)) : Int :=
  ∑ i : Fin ds.length, ((ds[i]).val : Int) * 10 ^ (ds.length - 1 - i.val)

/-- A significand with its sign, when it lies in the 32-bit signed range, else OUT_OF_RANGE (43_parser.md R172, R173). -/
def significand (sign : List Chr) (ds : List (Fin 10)) (scl : Nat) : Converted :=
  let v := if sign = [chrMinus] then -decimalSum ds else decimalSum ds
  if v < -2147483648 ∨ v > 2147483647 then .fail .outOfRange else .value v scl

/-- The characters of a float token without its sign: digits, then nothing or a `.` and digits (43_parser.md R173). -/
def floatBody (whole : List (Fin 10)) : Option (List (Fin 10)) → List Chr
  | none => whole.map digitChr
  | some frac => whole.map digitChr ++ chrDot :: frac.map digitChr

/-- The grammar's demand on the digits: some before, or some after the `.` (43_parser.md R173). -/
abbrev isFloatBody (whole : List (Fin 10)) (frac : Option (List (Fin 10))) : Prop := whole ≠ [] ∨ frac.getD [] ≠ []

/-- No command error stands in STATUS: the premise 93_implementation_defined.md I5 asks of a claim about a host's use. -/
abbrev State.clean (s : State) : Prop := s.err = false

/-- `k` steps of the machine (`Host.Core.run` of `Sys2Proof.core`, by `run_eq_core`). -/
def run : Nat → State → Host.Outcome State Fault Refusal
  | 0, s => .next s
  | k + 1, s =>
    match step s with
    | .next t => run k t
    | .fault r => .fault r
    | .refused r => .refused r

/-- The block with its reset input released and a list of commands pending, as writes to CMD. -/
def State.withCommands (s : State) (is : List Instr) : State :=
  { s with resetLine := false, inbox := commandInputs is }

/-- The answers `n` writes to CMD get. -/
def okAnswers (n : Nat) : List Response := List.replicate n ⟨.ok, none⟩

/-- The bytes the CRC.BYTE commands of a list fold into the accumulator, in order. -/
def crcOperands : List Instr → List Byte
  | [] => []
  | .crcByte b :: is => b :: crcOperands is
  | .nop :: is => crcOperands is
  | .errclr :: is => crcOperands is
  | .sreset :: is => crcOperands is
  | .crcClr :: is => crcOperands is
  | .frmClr :: is => crcOperands is
  | .frmPush _ :: is => crcOperands is
  | .frmBuild :: is => crcOperands is
  | .rxClr :: is => crcOperands is
  | .rxPush _ :: is => crcOperands is
  | .parse :: is => crcOperands is

/-- The example reply of 95_test_vectors.md W4, 60 bytes. -/
def exampleReply : List Byte :=
  [0x28, 0x32, 0x33, 0x30, 0x2E, 0x31, 0x20, 0x35, 0x30, 0x2E, 0x30, 0x20, 0x32, 0x33, 0x30,
   0x2E, 0x30, 0x20, 0x35, 0x30, 0x2E, 0x30, 0x20, 0x30, 0x35, 0x30, 0x30, 0x20, 0x30, 0x34,
   0x30, 0x30, 0x20, 0x30, 0x30, 0x20, 0x30, 0x30, 0x20, 0x35, 0x31, 0x2E, 0x32, 0x20, 0x30,
   0x38, 0x30, 0x20, 0x30, 0x30, 0x20, 0x30, 0x30, 0x20, 0x30, 0x31, 0x32, 0x30, 0x0D, 0x00]

end Sys2Proof.Machine
end

