-- ==== Sys2Proof/Laws/State.lean ====
section
/-!
SUPPORT. One lemma per field per update of the state, each true by rfl, so that no proof unfolds a record update; for
`recordError`, whose update depends on ERR, the fields it never writes.
-/

namespace Sys2Proof.Machine

@[simp] theorem State.setCrc_crc (s : State) (c : Crc) : (s.setCrc c).crc = c := rfl
@[simp] theorem State.setCrc_payload (s : State) (c : Crc) : (s.setCrc c).payload = s.payload := rfl
@[simp] theorem State.setCrc_tx (s : State) (c : Crc) : (s.setCrc c).tx = s.tx := rfl
@[simp] theorem State.setCrc_rx (s : State) (c : Crc) : (s.setCrc c).rx = s.rx := rfl
@[simp] theorem State.setCrc_drop (s : State) (c : Crc) : (s.setCrc c).drop = s.drop := rfl
@[simp] theorem State.setCrc_err (s : State) (c : Crc) : (s.setCrc c).err = s.err := rfl
@[simp] theorem State.setCrc_eovf (s : State) (c : Crc) : (s.setCrc c).eovf = s.eovf := rfl
@[simp] theorem State.setCrc_ecause (s : State) (c : Crc) : (s.setCrc c).ecause = s.ecause := rfl
@[simp] theorem State.setCrc_valid (s : State) (c : Crc) : (s.setCrc c).valid = s.valid := rfl
@[simp] theorem State.setCrc_reason (s : State) (c : Crc) : (s.setCrc c).reason = s.reason := rfl
@[simp] theorem State.setCrc_fidx (s : State) (c : Crc) : (s.setCrc c).fidx = s.fidx := rfl
@[simp] theorem State.setCrc_ntok (s : State) (c : Crc) : (s.setCrc c).ntok = s.ntok := rfl
@[simp] theorem State.setCrc_fval (s : State) (c : Crc) : (s.setCrc c).fval = s.fval := rfl
@[simp] theorem State.setCrc_fscl (s : State) (c : Crc) : (s.setCrc c).fscl = s.fscl := rfl
@[simp] theorem State.setCrc_resetLine (s : State) (c : Crc) : (s.setCrc c).resetLine = s.resetLine := rfl
@[simp] theorem State.setCrc_inbox (s : State) (c : Crc) : (s.setCrc c).inbox = s.inbox := rfl
@[simp] theorem State.setCrc_outbox (s : State) (c : Crc) : (s.setCrc c).outbox = s.outbox := rfl

@[simp] theorem State.setPayload_crc (s : State) (p : List Byte) : (s.setPayload p).crc = s.crc := rfl
@[simp] theorem State.setPayload_payload (s : State) (p : List Byte) : (s.setPayload p).payload = p := rfl
@[simp] theorem State.setPayload_tx (s : State) (p : List Byte) : (s.setPayload p).tx = s.tx := rfl
@[simp] theorem State.setPayload_rx (s : State) (p : List Byte) : (s.setPayload p).rx = s.rx := rfl
@[simp] theorem State.setPayload_drop (s : State) (p : List Byte) : (s.setPayload p).drop = s.drop := rfl
@[simp] theorem State.setPayload_err (s : State) (p : List Byte) : (s.setPayload p).err = s.err := rfl
@[simp] theorem State.setPayload_eovf (s : State) (p : List Byte) : (s.setPayload p).eovf = s.eovf := rfl
@[simp] theorem State.setPayload_ecause (s : State) (p : List Byte) : (s.setPayload p).ecause = s.ecause := rfl
@[simp] theorem State.setPayload_valid (s : State) (p : List Byte) : (s.setPayload p).valid = s.valid := rfl
@[simp] theorem State.setPayload_reason (s : State) (p : List Byte) : (s.setPayload p).reason = s.reason := rfl
@[simp] theorem State.setPayload_fidx (s : State) (p : List Byte) : (s.setPayload p).fidx = s.fidx := rfl
@[simp] theorem State.setPayload_ntok (s : State) (p : List Byte) : (s.setPayload p).ntok = s.ntok := rfl
@[simp] theorem State.setPayload_fval (s : State) (p : List Byte) : (s.setPayload p).fval = s.fval := rfl
@[simp] theorem State.setPayload_fscl (s : State) (p : List Byte) : (s.setPayload p).fscl = s.fscl := rfl
@[simp] theorem State.setPayload_resetLine (s : State) (p : List Byte) : (s.setPayload p).resetLine = s.resetLine := rfl
@[simp] theorem State.setPayload_inbox (s : State) (p : List Byte) : (s.setPayload p).inbox = s.inbox := rfl
@[simp] theorem State.setPayload_outbox (s : State) (p : List Byte) : (s.setPayload p).outbox = s.outbox := rfl

@[simp] theorem State.setTx_crc (s : State) (x : List Byte) : (s.setTx x).crc = s.crc := rfl
@[simp] theorem State.setTx_payload (s : State) (x : List Byte) : (s.setTx x).payload = s.payload := rfl
@[simp] theorem State.setTx_tx (s : State) (x : List Byte) : (s.setTx x).tx = x := rfl
@[simp] theorem State.setTx_rx (s : State) (x : List Byte) : (s.setTx x).rx = s.rx := rfl
@[simp] theorem State.setTx_drop (s : State) (x : List Byte) : (s.setTx x).drop = s.drop := rfl
@[simp] theorem State.setTx_err (s : State) (x : List Byte) : (s.setTx x).err = s.err := rfl
@[simp] theorem State.setTx_eovf (s : State) (x : List Byte) : (s.setTx x).eovf = s.eovf := rfl
@[simp] theorem State.setTx_ecause (s : State) (x : List Byte) : (s.setTx x).ecause = s.ecause := rfl
@[simp] theorem State.setTx_valid (s : State) (x : List Byte) : (s.setTx x).valid = s.valid := rfl
@[simp] theorem State.setTx_reason (s : State) (x : List Byte) : (s.setTx x).reason = s.reason := rfl
@[simp] theorem State.setTx_fidx (s : State) (x : List Byte) : (s.setTx x).fidx = s.fidx := rfl
@[simp] theorem State.setTx_ntok (s : State) (x : List Byte) : (s.setTx x).ntok = s.ntok := rfl
@[simp] theorem State.setTx_fval (s : State) (x : List Byte) : (s.setTx x).fval = s.fval := rfl
@[simp] theorem State.setTx_fscl (s : State) (x : List Byte) : (s.setTx x).fscl = s.fscl := rfl
@[simp] theorem State.setTx_resetLine (s : State) (x : List Byte) : (s.setTx x).resetLine = s.resetLine := rfl
@[simp] theorem State.setTx_inbox (s : State) (x : List Byte) : (s.setTx x).inbox = s.inbox := rfl
@[simp] theorem State.setTx_outbox (s : State) (x : List Byte) : (s.setTx x).outbox = s.outbox := rfl

@[simp] theorem State.setRx_crc (s : State) (x : List Byte) : (s.setRx x).crc = s.crc := rfl
@[simp] theorem State.setRx_payload (s : State) (x : List Byte) : (s.setRx x).payload = s.payload := rfl
@[simp] theorem State.setRx_tx (s : State) (x : List Byte) : (s.setRx x).tx = s.tx := rfl
@[simp] theorem State.setRx_rx (s : State) (x : List Byte) : (s.setRx x).rx = x := rfl
@[simp] theorem State.setRx_drop (s : State) (x : List Byte) : (s.setRx x).drop = s.drop := rfl
@[simp] theorem State.setRx_err (s : State) (x : List Byte) : (s.setRx x).err = s.err := rfl
@[simp] theorem State.setRx_eovf (s : State) (x : List Byte) : (s.setRx x).eovf = s.eovf := rfl
@[simp] theorem State.setRx_ecause (s : State) (x : List Byte) : (s.setRx x).ecause = s.ecause := rfl
@[simp] theorem State.setRx_valid (s : State) (x : List Byte) : (s.setRx x).valid = s.valid := rfl
@[simp] theorem State.setRx_reason (s : State) (x : List Byte) : (s.setRx x).reason = s.reason := rfl
@[simp] theorem State.setRx_fidx (s : State) (x : List Byte) : (s.setRx x).fidx = s.fidx := rfl
@[simp] theorem State.setRx_ntok (s : State) (x : List Byte) : (s.setRx x).ntok = s.ntok := rfl
@[simp] theorem State.setRx_fval (s : State) (x : List Byte) : (s.setRx x).fval = s.fval := rfl
@[simp] theorem State.setRx_fscl (s : State) (x : List Byte) : (s.setRx x).fscl = s.fscl := rfl
@[simp] theorem State.setRx_resetLine (s : State) (x : List Byte) : (s.setRx x).resetLine = s.resetLine := rfl
@[simp] theorem State.setRx_inbox (s : State) (x : List Byte) : (s.setRx x).inbox = s.inbox := rfl
@[simp] theorem State.setRx_outbox (s : State) (x : List Byte) : (s.setRx x).outbox = s.outbox := rfl

@[simp] theorem State.setDrop_crc (s : State) (d : Bool) : (s.setDrop d).crc = s.crc := rfl
@[simp] theorem State.setDrop_payload (s : State) (d : Bool) : (s.setDrop d).payload = s.payload := rfl
@[simp] theorem State.setDrop_tx (s : State) (d : Bool) : (s.setDrop d).tx = s.tx := rfl
@[simp] theorem State.setDrop_rx (s : State) (d : Bool) : (s.setDrop d).rx = s.rx := rfl
@[simp] theorem State.setDrop_drop (s : State) (d : Bool) : (s.setDrop d).drop = d := rfl
@[simp] theorem State.setDrop_err (s : State) (d : Bool) : (s.setDrop d).err = s.err := rfl
@[simp] theorem State.setDrop_eovf (s : State) (d : Bool) : (s.setDrop d).eovf = s.eovf := rfl
@[simp] theorem State.setDrop_ecause (s : State) (d : Bool) : (s.setDrop d).ecause = s.ecause := rfl
@[simp] theorem State.setDrop_valid (s : State) (d : Bool) : (s.setDrop d).valid = s.valid := rfl
@[simp] theorem State.setDrop_reason (s : State) (d : Bool) : (s.setDrop d).reason = s.reason := rfl
@[simp] theorem State.setDrop_fidx (s : State) (d : Bool) : (s.setDrop d).fidx = s.fidx := rfl
@[simp] theorem State.setDrop_ntok (s : State) (d : Bool) : (s.setDrop d).ntok = s.ntok := rfl
@[simp] theorem State.setDrop_fval (s : State) (d : Bool) : (s.setDrop d).fval = s.fval := rfl
@[simp] theorem State.setDrop_fscl (s : State) (d : Bool) : (s.setDrop d).fscl = s.fscl := rfl
@[simp] theorem State.setDrop_resetLine (s : State) (d : Bool) : (s.setDrop d).resetLine = s.resetLine := rfl
@[simp] theorem State.setDrop_inbox (s : State) (d : Bool) : (s.setDrop d).inbox = s.inbox := rfl
@[simp] theorem State.setDrop_outbox (s : State) (d : Bool) : (s.setDrop d).outbox = s.outbox := rfl

@[simp] theorem State.setPres_crc (s : State) (v : Bool) (r k : BitVec 4) (n : BitVec 8) : (s.setPres v r k n).crc = s.crc := rfl
@[simp] theorem State.setPres_payload (s : State) (v : Bool) (r k : BitVec 4) (n : BitVec 8) : (s.setPres v r k n).payload = s.payload := rfl
@[simp] theorem State.setPres_tx (s : State) (v : Bool) (r k : BitVec 4) (n : BitVec 8) : (s.setPres v r k n).tx = s.tx := rfl
@[simp] theorem State.setPres_rx (s : State) (v : Bool) (r k : BitVec 4) (n : BitVec 8) : (s.setPres v r k n).rx = s.rx := rfl
@[simp] theorem State.setPres_drop (s : State) (v : Bool) (r k : BitVec 4) (n : BitVec 8) : (s.setPres v r k n).drop = s.drop := rfl
@[simp] theorem State.setPres_err (s : State) (v : Bool) (r k : BitVec 4) (n : BitVec 8) : (s.setPres v r k n).err = s.err := rfl
@[simp] theorem State.setPres_eovf (s : State) (v : Bool) (r k : BitVec 4) (n : BitVec 8) : (s.setPres v r k n).eovf = s.eovf := rfl
@[simp] theorem State.setPres_ecause (s : State) (v : Bool) (r k : BitVec 4) (n : BitVec 8) : (s.setPres v r k n).ecause = s.ecause := rfl
@[simp] theorem State.setPres_valid (s : State) (v : Bool) (r k : BitVec 4) (n : BitVec 8) : (s.setPres v r k n).valid = v := rfl
@[simp] theorem State.setPres_reason (s : State) (v : Bool) (r k : BitVec 4) (n : BitVec 8) : (s.setPres v r k n).reason = r := rfl
@[simp] theorem State.setPres_fidx (s : State) (v : Bool) (r k : BitVec 4) (n : BitVec 8) : (s.setPres v r k n).fidx = k := rfl
@[simp] theorem State.setPres_ntok (s : State) (v : Bool) (r k : BitVec 4) (n : BitVec 8) : (s.setPres v r k n).ntok = n := rfl
@[simp] theorem State.setPres_fval (s : State) (v : Bool) (r k : BitVec 4) (n : BitVec 8) : (s.setPres v r k n).fval = s.fval := rfl
@[simp] theorem State.setPres_fscl (s : State) (v : Bool) (r k : BitVec 4) (n : BitVec 8) : (s.setPres v r k n).fscl = s.fscl := rfl
@[simp] theorem State.setPres_resetLine (s : State) (v : Bool) (r k : BitVec 4) (n : BitVec 8) : (s.setPres v r k n).resetLine = s.resetLine := rfl
@[simp] theorem State.setPres_inbox (s : State) (v : Bool) (r k : BitVec 4) (n : BitVec 8) : (s.setPres v r k n).inbox = s.inbox := rfl
@[simp] theorem State.setPres_outbox (s : State) (v : Bool) (r k : BitVec 4) (n : BitVec 8) : (s.setPres v r k n).outbox = s.outbox := rfl

@[simp] theorem State.setFields_crc (s : State) (v : Vector (BitVec 32) 10) (c : Vector (BitVec 4) 10) : (s.setFields v c).crc = s.crc := rfl
@[simp] theorem State.setFields_payload (s : State) (v : Vector (BitVec 32) 10) (c : Vector (BitVec 4) 10) : (s.setFields v c).payload = s.payload := rfl
@[simp] theorem State.setFields_tx (s : State) (v : Vector (BitVec 32) 10) (c : Vector (BitVec 4) 10) : (s.setFields v c).tx = s.tx := rfl
@[simp] theorem State.setFields_rx (s : State) (v : Vector (BitVec 32) 10) (c : Vector (BitVec 4) 10) : (s.setFields v c).rx = s.rx := rfl
@[simp] theorem State.setFields_drop (s : State) (v : Vector (BitVec 32) 10) (c : Vector (BitVec 4) 10) : (s.setFields v c).drop = s.drop := rfl
@[simp] theorem State.setFields_err (s : State) (v : Vector (BitVec 32) 10) (c : Vector (BitVec 4) 10) : (s.setFields v c).err = s.err := rfl
@[simp] theorem State.setFields_eovf (s : State) (v : Vector (BitVec 32) 10) (c : Vector (BitVec 4) 10) : (s.setFields v c).eovf = s.eovf := rfl
@[simp] theorem State.setFields_ecause (s : State) (v : Vector (BitVec 32) 10) (c : Vector (BitVec 4) 10) : (s.setFields v c).ecause = s.ecause := rfl
@[simp] theorem State.setFields_valid (s : State) (v : Vector (BitVec 32) 10) (c : Vector (BitVec 4) 10) : (s.setFields v c).valid = s.valid := rfl
@[simp] theorem State.setFields_reason (s : State) (v : Vector (BitVec 32) 10) (c : Vector (BitVec 4) 10) : (s.setFields v c).reason = s.reason := rfl
@[simp] theorem State.setFields_fidx (s : State) (v : Vector (BitVec 32) 10) (c : Vector (BitVec 4) 10) : (s.setFields v c).fidx = s.fidx := rfl
@[simp] theorem State.setFields_ntok (s : State) (v : Vector (BitVec 32) 10) (c : Vector (BitVec 4) 10) : (s.setFields v c).ntok = s.ntok := rfl
@[simp] theorem State.setFields_fval (s : State) (v : Vector (BitVec 32) 10) (c : Vector (BitVec 4) 10) : (s.setFields v c).fval = v := rfl
@[simp] theorem State.setFields_fscl (s : State) (v : Vector (BitVec 32) 10) (c : Vector (BitVec 4) 10) : (s.setFields v c).fscl = c := rfl
@[simp] theorem State.setFields_resetLine (s : State) (v : Vector (BitVec 32) 10) (c : Vector (BitVec 4) 10) : (s.setFields v c).resetLine = s.resetLine := rfl
@[simp] theorem State.setFields_inbox (s : State) (v : Vector (BitVec 32) 10) (c : Vector (BitVec 4) 10) : (s.setFields v c).inbox = s.inbox := rfl
@[simp] theorem State.setFields_outbox (s : State) (v : Vector (BitVec 32) 10) (c : Vector (BitVec 4) 10) : (s.setFields v c).outbox = s.outbox := rfl

@[simp] theorem State.clearError_crc (s : State) : s.clearError.crc = s.crc := rfl
@[simp] theorem State.clearError_payload (s : State) : s.clearError.payload = s.payload := rfl
@[simp] theorem State.clearError_tx (s : State) : s.clearError.tx = s.tx := rfl
@[simp] theorem State.clearError_rx (s : State) : s.clearError.rx = s.rx := rfl
@[simp] theorem State.clearError_drop (s : State) : s.clearError.drop = s.drop := rfl
@[simp] theorem State.clearError_err (s : State) : s.clearError.err = false := rfl
@[simp] theorem State.clearError_eovf (s : State) : s.clearError.eovf = false := rfl
@[simp] theorem State.clearError_ecause (s : State) : s.clearError.ecause = 0 := rfl
@[simp] theorem State.clearError_valid (s : State) : s.clearError.valid = s.valid := rfl
@[simp] theorem State.clearError_reason (s : State) : s.clearError.reason = s.reason := rfl
@[simp] theorem State.clearError_fidx (s : State) : s.clearError.fidx = s.fidx := rfl
@[simp] theorem State.clearError_ntok (s : State) : s.clearError.ntok = s.ntok := rfl
@[simp] theorem State.clearError_fval (s : State) : s.clearError.fval = s.fval := rfl
@[simp] theorem State.clearError_fscl (s : State) : s.clearError.fscl = s.fscl := rfl
@[simp] theorem State.clearError_resetLine (s : State) : s.clearError.resetLine = s.resetLine := rfl
@[simp] theorem State.clearError_inbox (s : State) : s.clearError.inbox = s.inbox := rfl
@[simp] theorem State.clearError_outbox (s : State) : s.clearError.outbox = s.outbox := rfl

@[simp] theorem State.resetElements_crc (s : State) : s.resetElements.crc = 0x0000 := rfl
@[simp] theorem State.resetElements_payload (s : State) : s.resetElements.payload = [] := rfl
@[simp] theorem State.resetElements_tx (s : State) : s.resetElements.tx = [] := rfl
@[simp] theorem State.resetElements_rx (s : State) : s.resetElements.rx = [] := rfl
@[simp] theorem State.resetElements_drop (s : State) : s.resetElements.drop = false := rfl
@[simp] theorem State.resetElements_err (s : State) : s.resetElements.err = false := rfl
@[simp] theorem State.resetElements_eovf (s : State) : s.resetElements.eovf = false := rfl
@[simp] theorem State.resetElements_ecause (s : State) : s.resetElements.ecause = 0 := rfl
@[simp] theorem State.resetElements_valid (s : State) : s.resetElements.valid = false := rfl
@[simp] theorem State.resetElements_reason (s : State) : s.resetElements.reason = 0 := rfl
@[simp] theorem State.resetElements_fidx (s : State) : s.resetElements.fidx = 0 := rfl
@[simp] theorem State.resetElements_ntok (s : State) : s.resetElements.ntok = 0 := rfl
@[simp] theorem State.resetElements_fval (s : State) : s.resetElements.fval = Vector.replicate 10 0 := rfl
@[simp] theorem State.resetElements_fscl (s : State) : s.resetElements.fscl = Vector.replicate 10 0 := rfl
@[simp] theorem State.resetElements_resetLine (s : State) : s.resetElements.resetLine = s.resetLine := rfl
@[simp] theorem State.resetElements_inbox (s : State) : s.resetElements.inbox = s.inbox := rfl
@[simp] theorem State.resetElements_outbox (s : State) : s.resetElements.outbox = s.outbox := rfl

@[simp] theorem State.setResetLine_crc (s : State) (b : Bool) : (s.setResetLine b).crc = s.crc := rfl
@[simp] theorem State.setResetLine_payload (s : State) (b : Bool) : (s.setResetLine b).payload = s.payload := rfl
@[simp] theorem State.setResetLine_tx (s : State) (b : Bool) : (s.setResetLine b).tx = s.tx := rfl
@[simp] theorem State.setResetLine_rx (s : State) (b : Bool) : (s.setResetLine b).rx = s.rx := rfl
@[simp] theorem State.setResetLine_drop (s : State) (b : Bool) : (s.setResetLine b).drop = s.drop := rfl
@[simp] theorem State.setResetLine_err (s : State) (b : Bool) : (s.setResetLine b).err = s.err := rfl
@[simp] theorem State.setResetLine_eovf (s : State) (b : Bool) : (s.setResetLine b).eovf = s.eovf := rfl
@[simp] theorem State.setResetLine_ecause (s : State) (b : Bool) : (s.setResetLine b).ecause = s.ecause := rfl
@[simp] theorem State.setResetLine_valid (s : State) (b : Bool) : (s.setResetLine b).valid = s.valid := rfl
@[simp] theorem State.setResetLine_reason (s : State) (b : Bool) : (s.setResetLine b).reason = s.reason := rfl
@[simp] theorem State.setResetLine_fidx (s : State) (b : Bool) : (s.setResetLine b).fidx = s.fidx := rfl
@[simp] theorem State.setResetLine_ntok (s : State) (b : Bool) : (s.setResetLine b).ntok = s.ntok := rfl
@[simp] theorem State.setResetLine_fval (s : State) (b : Bool) : (s.setResetLine b).fval = s.fval := rfl
@[simp] theorem State.setResetLine_fscl (s : State) (b : Bool) : (s.setResetLine b).fscl = s.fscl := rfl
@[simp] theorem State.setResetLine_resetLine (s : State) (b : Bool) : (s.setResetLine b).resetLine = b := rfl
@[simp] theorem State.setResetLine_inbox (s : State) (b : Bool) : (s.setResetLine b).inbox = s.inbox := rfl
@[simp] theorem State.setResetLine_outbox (s : State) (b : Bool) : (s.setResetLine b).outbox = s.outbox := rfl

@[simp] theorem State.setInbox_crc (s : State) (l : List Input) : (s.setInbox l).crc = s.crc := rfl
@[simp] theorem State.setInbox_payload (s : State) (l : List Input) : (s.setInbox l).payload = s.payload := rfl
@[simp] theorem State.setInbox_tx (s : State) (l : List Input) : (s.setInbox l).tx = s.tx := rfl
@[simp] theorem State.setInbox_rx (s : State) (l : List Input) : (s.setInbox l).rx = s.rx := rfl
@[simp] theorem State.setInbox_drop (s : State) (l : List Input) : (s.setInbox l).drop = s.drop := rfl
@[simp] theorem State.setInbox_err (s : State) (l : List Input) : (s.setInbox l).err = s.err := rfl
@[simp] theorem State.setInbox_eovf (s : State) (l : List Input) : (s.setInbox l).eovf = s.eovf := rfl
@[simp] theorem State.setInbox_ecause (s : State) (l : List Input) : (s.setInbox l).ecause = s.ecause := rfl
@[simp] theorem State.setInbox_valid (s : State) (l : List Input) : (s.setInbox l).valid = s.valid := rfl
@[simp] theorem State.setInbox_reason (s : State) (l : List Input) : (s.setInbox l).reason = s.reason := rfl
@[simp] theorem State.setInbox_fidx (s : State) (l : List Input) : (s.setInbox l).fidx = s.fidx := rfl
@[simp] theorem State.setInbox_ntok (s : State) (l : List Input) : (s.setInbox l).ntok = s.ntok := rfl
@[simp] theorem State.setInbox_fval (s : State) (l : List Input) : (s.setInbox l).fval = s.fval := rfl
@[simp] theorem State.setInbox_fscl (s : State) (l : List Input) : (s.setInbox l).fscl = s.fscl := rfl
@[simp] theorem State.setInbox_resetLine (s : State) (l : List Input) : (s.setInbox l).resetLine = s.resetLine := rfl
@[simp] theorem State.setInbox_inbox (s : State) (l : List Input) : (s.setInbox l).inbox = l := rfl
@[simp] theorem State.setInbox_outbox (s : State) (l : List Input) : (s.setInbox l).outbox = s.outbox := rfl

@[simp] theorem State.answer_crc (s : State) (r : Response) : (s.answer r).crc = s.crc := rfl
@[simp] theorem State.answer_payload (s : State) (r : Response) : (s.answer r).payload = s.payload := rfl
@[simp] theorem State.answer_tx (s : State) (r : Response) : (s.answer r).tx = s.tx := rfl
@[simp] theorem State.answer_rx (s : State) (r : Response) : (s.answer r).rx = s.rx := rfl
@[simp] theorem State.answer_drop (s : State) (r : Response) : (s.answer r).drop = s.drop := rfl
@[simp] theorem State.answer_err (s : State) (r : Response) : (s.answer r).err = s.err := rfl
@[simp] theorem State.answer_eovf (s : State) (r : Response) : (s.answer r).eovf = s.eovf := rfl
@[simp] theorem State.answer_ecause (s : State) (r : Response) : (s.answer r).ecause = s.ecause := rfl
@[simp] theorem State.answer_valid (s : State) (r : Response) : (s.answer r).valid = s.valid := rfl
@[simp] theorem State.answer_reason (s : State) (r : Response) : (s.answer r).reason = s.reason := rfl
@[simp] theorem State.answer_fidx (s : State) (r : Response) : (s.answer r).fidx = s.fidx := rfl
@[simp] theorem State.answer_ntok (s : State) (r : Response) : (s.answer r).ntok = s.ntok := rfl
@[simp] theorem State.answer_fval (s : State) (r : Response) : (s.answer r).fval = s.fval := rfl
@[simp] theorem State.answer_fscl (s : State) (r : Response) : (s.answer r).fscl = s.fscl := rfl
@[simp] theorem State.answer_resetLine (s : State) (r : Response) : (s.answer r).resetLine = s.resetLine := rfl
@[simp] theorem State.answer_inbox (s : State) (r : Response) : (s.answer r).inbox = s.inbox := rfl
@[simp] theorem State.answer_outbox (s : State) (r : Response) : (s.answer r).outbox = s.outbox ++ [r] := rfl

@[simp] theorem State.setParse_crc (s : State) (r : ParseResult) : (s.setParse r).crc = s.crc := rfl
@[simp] theorem State.setParse_payload (s : State) (r : ParseResult) : (s.setParse r).payload = s.payload := rfl
@[simp] theorem State.setParse_tx (s : State) (r : ParseResult) : (s.setParse r).tx = s.tx := rfl
@[simp] theorem State.setParse_rx (s : State) (r : ParseResult) : (s.setParse r).rx = s.rx := rfl
@[simp] theorem State.setParse_drop (s : State) (r : ParseResult) : (s.setParse r).drop = s.drop := rfl
@[simp] theorem State.setParse_err (s : State) (r : ParseResult) : (s.setParse r).err = s.err := rfl
@[simp] theorem State.setParse_eovf (s : State) (r : ParseResult) : (s.setParse r).eovf = s.eovf := rfl
@[simp] theorem State.setParse_ecause (s : State) (r : ParseResult) : (s.setParse r).ecause = s.ecause := rfl
@[simp] theorem State.setParse_valid (s : State) (r : ParseResult) : (s.setParse r).valid = r.valid := rfl
@[simp] theorem State.setParse_reason (s : State) (r : ParseResult) : (s.setParse r).reason = r.reason.code := rfl
@[simp] theorem State.setParse_fidx (s : State) (r : ParseResult) : (s.setParse r).fidx = BitVec.ofNat 4 r.fidx := rfl
@[simp] theorem State.setParse_ntok (s : State) (r : ParseResult) : (s.setParse r).ntok = BitVec.ofNat 8 r.ntok := rfl
@[simp] theorem State.setParse_fval (s : State) (r : ParseResult) : (s.setParse r).fval = r.fvals := rfl
@[simp] theorem State.setParse_fscl (s : State) (r : ParseResult) : (s.setParse r).fscl = r.fscls := rfl
@[simp] theorem State.setParse_resetLine (s : State) (r : ParseResult) : (s.setParse r).resetLine = s.resetLine := rfl
@[simp] theorem State.setParse_inbox (s : State) (r : ParseResult) : (s.setParse r).inbox = s.inbox := rfl
@[simp] theorem State.setParse_outbox (s : State) (r : ParseResult) : (s.setParse r).outbox = s.outbox := rfl

@[simp] theorem State.recordError_crc (s : State) (c : Cause) : (s.recordError c).crc = s.crc := by
  unfold State.recordError
  split <;> rfl
@[simp] theorem State.recordError_payload (s : State) (c : Cause) : (s.recordError c).payload = s.payload := by
  unfold State.recordError
  split <;> rfl
@[simp] theorem State.recordError_tx (s : State) (c : Cause) : (s.recordError c).tx = s.tx := by
  unfold State.recordError
  split <;> rfl
@[simp] theorem State.recordError_rx (s : State) (c : Cause) : (s.recordError c).rx = s.rx := by
  unfold State.recordError
  split <;> rfl
@[simp] theorem State.recordError_drop (s : State) (c : Cause) : (s.recordError c).drop = s.drop := by
  unfold State.recordError
  split <;> rfl
@[simp] theorem State.recordError_valid (s : State) (c : Cause) : (s.recordError c).valid = s.valid := by
  unfold State.recordError
  split <;> rfl
@[simp] theorem State.recordError_reason (s : State) (c : Cause) : (s.recordError c).reason = s.reason := by
  unfold State.recordError
  split <;> rfl
@[simp] theorem State.recordError_fidx (s : State) (c : Cause) : (s.recordError c).fidx = s.fidx := by
  unfold State.recordError
  split <;> rfl
@[simp] theorem State.recordError_ntok (s : State) (c : Cause) : (s.recordError c).ntok = s.ntok := by
  unfold State.recordError
  split <;> rfl
@[simp] theorem State.recordError_fval (s : State) (c : Cause) : (s.recordError c).fval = s.fval := by
  unfold State.recordError
  split <;> rfl
@[simp] theorem State.recordError_fscl (s : State) (c : Cause) : (s.recordError c).fscl = s.fscl := by
  unfold State.recordError
  split <;> rfl
@[simp] theorem State.recordError_resetLine (s : State) (c : Cause) : (s.recordError c).resetLine = s.resetLine := by
  unfold State.recordError
  split <;> rfl
@[simp] theorem State.recordError_inbox (s : State) (c : Cause) : (s.recordError c).inbox = s.inbox := by
  unfold State.recordError
  split <;> rfl
@[simp] theorem State.recordError_outbox (s : State) (c : Cause) : (s.recordError c).outbox = s.outbox := by
  unfold State.recordError
  split <;> rfl

@[simp] theorem State.recordError_err (s : State) (c : Cause) : (s.recordError c).err = true := by
  unfold State.recordError
  split <;> simp_all

end Sys2Proof.Machine
end

