-- ==== Sys2Proof/Laws/Ops.lean ====
section
/-!
SUPPORT. What the shared operations can do, said once each: entering an error, an outcome's next state, the code tables.
-/

namespace Sys2Proof.Machine

theorem raise_eq (c : Cause) (s : State) : raise c s = .next (s.recordError c) := rfl

/-- Everything `RecordError` can do (60_exceptions.md R202). -/
theorem recordError_cases (s : State) (c : Cause) :
    (s.err = false ∧ s.recordError c = { s with err := true, ecause := c.code }) ∨
      (s.err = true ∧ s.recordError c = { s with eovf := true }) := by
  unfold State.recordError
  cases h : s.err
  · exact .inl ⟨rfl, if_pos rfl⟩
  · exact .inr ⟨rfl, if_neg (by simp)⟩

/-- `RecordError` field by field. -/
theorem recordError_eq (s : State) (c : Cause) :
    s.recordError c =
      { s with err := true, eovf := s.eovf || s.err, ecause := if s.err then s.ecause else c.code } := by
  rcases recordError_cases s c with ⟨h, he⟩ | ⟨h, he⟩ <;> rw [he] <;> simp [h]

theorem mapNext_next (f : State → State) (t : State) : mapNext f (.next t) = .next (f t) := rfl

/-- An outcome mapped has a next state only where the outcome had one. -/
theorem mapNext_eq_next (f : State → State) (o : Host.Outcome State Fault Refusal) (t : State)
    (h : mapNext f o = .next t) : ∃ u, o = .next u ∧ t = f u := by
  cases o with
  | next u => exact ⟨u, rfl, by simpa [mapNext] using h.symm⟩
  | fault r => cases r
  | refused r => simp [mapNext] at h

/-- The recorded causes are the codes 1 to 5 (60_exceptions.md R200). -/
theorem cause_code_bounds (c : Cause) : 1 ≤ c.code ∧ c.code ≤ 5 := by
  cases c <;> decide

theorem cause_code_injective (c d : Cause) (h : c.code = d.code) : c = d := by
  revert h
  cases c <;> cases d <;> decide

/-- The outcome codes are 0 to 5 (10_state.md R33). -/
theorem reason_code_le (r : Reason) : r.code ≤ 5 := by
  cases r <;> decide

theorem reason_code_injective (q r : Reason) (h : q.code = r.code) : q = r := by
  revert h
  cases q <;> cases r <;> decide

/-- `RecordError` changes the error record only. -/
theorem recordError_frame (s : State) (c : Cause) :
    ∃ v k, s.recordError c = { s with err := true, eovf := v, ecause := k } := by
  rcases recordError_cases s c with ⟨_, h⟩ | ⟨he, h⟩
  · exact ⟨s.eovf, c.code, h⟩
  · exact ⟨true, s.ecause, by rw [h, ← he]⟩

end Sys2Proof.Machine
end

