-- ==== Sys2Proof/Laws/Bus.lean ====
section
/-!
SUPPORT. The bus port and the step: what taking an input can do, said once (20_memory.md R61 to R64, 70_reset_and_hazards.md
R230 to R232).
-/

namespace Sys2Proof.Machine

theorem regAt_cmd : regAt 0x010 = .cmd := rfl

theorem regAt_ctrl : regAt 0x008 = .ctrl := rfl

theorem memWrite_cmd (w : Word) (s : State) : memWrite 0x010 w s = execute w s := rfl

theorem memWrite_ctrl (v : Word) (s : State) : memWrite 0x008 v s = .next (s.setDrop (v.getLsbD 0)) := rfl

theorem execute_instr (w : Word) (i : Instr) (s : State) (h : decode w = .instr i) : execute w s = exec i s := by
  simp [execute, h]

theorem execute_error (w : Word) (c : Cause) (s : State) (h : decode w = .error c) :
    execute w s = .next (s.recordError c) := by
  simp [execute, h, raise]

/-- Everything a write of a register or window word can do (20_memory.md R64). -/
theorem writeReg_cases (r : Reg) (v : Word) (s : State) :
    (r = .ctrl ∧ writeReg r v s = .next (s.setDrop (v.getLsbD 0))) ∨ (r = .cmd ∧ writeReg r v s = execute v s) ∨
      (r ≠ .ctrl ∧ r ≠ .cmd ∧ writeReg r v s = .next s) := by
  cases r <;> simp [writeReg]

/-- Everything an accepted access can do (20_memory.md R61 to R64). -/
theorem runAccess_cases (a : Access) (s : State) :
    (a.wellFormed = false ∧ runAccess a s = .next (s.answer (busErrorAnswer a.op))) ∨
      (a.wellFormed = true ∧ a.op = .read ∧ runAccess a s = .next (s.answer ⟨.ok, some (memRead a.off s)⟩)) ∨
      (a.wellFormed = true ∧ ∃ v, a.op = .write v ∧
        runAccess a s = mapNext (fun t => t.answer ⟨.ok, none⟩) (memWrite a.off v s)) := by
  obtain ⟨op, off, size⟩ := a
  unfold runAccess
  cases h : Access.wellFormed ⟨op, off, size⟩
  · exact .inl ⟨rfl, if_pos rfl⟩
  · cases op with
    | read => exact .inr (.inl ⟨rfl, rfl, by simp⟩)
    | write v => exact .inr (.inr ⟨rfl, v, rfl, by simp⟩)

theorem runAccess_refused (a : Access) (s : State) (h : a.wellFormed = false) :
    runAccess a s = .next (s.answer (busErrorAnswer a.op)) := if_pos h

theorem runAccess_read (off : Offset) (s : State) (h : off.extractLsb' 0 2 = 0) :
    runAccess ⟨.read, off, .four⟩ s = .next (s.answer ⟨.ok, some (memRead off s)⟩) :=
  if_neg (by simp [Access.wellFormed, h])

theorem runAccess_write (off : Offset) (v : Word) (s : State) (h : off.extractLsb' 0 2 = 0) :
    runAccess ⟨.write v, off, .four⟩ s = mapNext (fun t => t.answer ⟨.ok, none⟩) (memWrite off v s) :=
  if_neg (by simp [Access.wellFormed, h])

theorem runAccess_cmdWrite (w : Word) (s : State) :
    runAccess (cmdWrite w) s = mapNext (fun t => t.answer ⟨.ok, none⟩) (execute w s) :=
  runAccess_write 0x010 w s (by decide)

theorem takeInput_access (a : Access) (s : State) (h : s.resetLine = false) :
    takeInput (.access a) s = runAccess a s := by
  simp [takeInput, h]

/-- An access turned away changes nothing but the answers. -/
theorem turnAway_cases (a : Access) (s : State) : turnAway a s = s ∨ ∃ r, turnAway a s = s.answer r := by
  unfold turnAway
  cases Config.answerDuringReset s.outbox.length a with
  | none => exact .inl rfl
  | some r => exact .inr ⟨r, rfl⟩

/-- Everything an input can do (70_reset_and_hazards.md R230 to R232). -/
theorem takeInput_cases (x : Input) (s : State) :
    (∃ a, x = .access a ∧ s.resetLine = true ∧ takeInput x s = .next (turnAway a s)) ∨
      (∃ a, x = .access a ∧ s.resetLine = false ∧ takeInput x s = runAccess a s) ∨
      (x = .resetAssert ∧ takeInput x s = .next (s.resetElements.setResetLine true)) ∨
      (x = .resetRelease ∧ takeInput x s = .next (s.setResetLine false)) ∨
      (x = .powerUp ∧ takeInput x s = .next s.resetElements) := by
  cases x with
  | access a => cases h : s.resetLine <;> simp [takeInput, h]
  | resetAssert => simp [takeInput]
  | resetRelease => simp [takeInput]
  | powerUp => simp [takeInput]

theorem step_nil (s : State) (h : s.inbox = []) : step s = .next s := by
  simp [step, h]

theorem step_cons (s : State) (x : Input) (rest : List Input) (h : s.inbox = x :: rest) :
    step s = mapNext (fun t => t.setInbox rest) (takeInput x s) := by
  simp [step, h]

@[simp] theorem run_zero (s : State) : run 0 s = .next s := rfl

theorem run_succ (k : Nat) (s t : State) (h : step s = .next t) : run (k + 1) s = run k t := by
  simp [run, h]

/-- The run of the statements is the run of the host's interface. -/
theorem run_eq_core (k : Nat) (s : State) : Host.Core.run Sys2Proof.core k s = run k s := by
  induction k generalizing s with
  | zero => rfl
  | succ k ih =>
    cases h : step s with
    | next t =>
      have hs : Sys2Proof.core.step s = .next t := h
      simp only [Host.Core.run, hs, run, h]
      exact ih t
    | fault r => cases r
    | refused r =>
      have hs : Sys2Proof.core.step s = .refused r := h
      simp only [Host.Core.run, hs, run, h]
      rfl

end Sys2Proof.Machine
end

