-- ==== Sys2Proof/Laws/Checksum.lean ====
section
/-!
SUPPORT. The checksum and the frame as functions of the bytes (41_checksum.md R121, R122, 42_framer.md R140).
-/

namespace Sys2Proof.Machine

@[simp] theorem crcFold_nil (c : Crc) : crcFold c [] = c := rfl

@[simp] theorem crcFold_cons (c : Crc) (b : Byte) (p : List Byte) :
    crcFold c (b :: p) = crcFold (crcStep c b) p := rfl

theorem crcFold_append (c : Crc) (p q : List Byte) : crcFold c (p ++ q) = crcFold (crcFold c p) q :=
  List.foldl_append

theorem checksum_eq (p : List Byte) : checksum p = crcFold 0 p := rfl

/-- The bit the loop tests is bit 15 (41_checksum.md R120). -/
theorem crcBit_test (c : Crc) : (c &&& 0x8000 ≠ 0) = (c.getLsbD 15 = true) := by
  have h15 : (c &&& 0x8000).getLsbD 15 = c.getLsbD 15 := by
    rw [BitVec.getLsbD_and, show (0x8000 : Crc).getLsbD 15 = true from rfl, Bool.and_true]
  refine propext ⟨fun hc => ?_, fun hb hc => ?_⟩
  · by_contra hb
    refine hc (BitVec.eq_of_getLsbD_eq fun i hi => ?_)
    rw [BitVec.getLsbD_and]
    rcases Nat.lt_or_ge i 15 with h | h
    · have : (0x8000 : Crc).getLsbD i = false := by
        interval_cases i <;> rfl
      rw [this, Bool.and_false]
      exact BitVec.getLsbD_zero.symm
    · obtain rfl : i = 15 := by omega
      rw [Bool.eq_false_iff.mpr hb, Bool.false_and]
      exact BitVec.getLsbD_zero.symm
  · rw [hc] at h15
    rw [← h15] at hb
    exact absurd hb (by decide)

/-- The loop body, in terms of the bit that the shift moves out (41_checksum.md R120). -/
theorem crcBit_eq (c : Crc) : crcBit c = if c.getLsbD 15 then (c <<< 1) ^^^ 0x1021 else c <<< 1 := by
  unfold crcBit
  simp only [crcBit_test, Config.poly]

theorem crcBits_succ (n : Nat) (c : Crc) : crcBits (n + 1) c = crcBits n (crcBit c) := rfl

/-- The loop is linear over exclusive or. -/
theorem crcBit_xor (c d : Crc) : crcBit (c ^^^ d) = crcBit c ^^^ crcBit d := by
  rw [crcBit_eq, crcBit_eq, crcBit_eq, BitVec.getLsbD_xor, BitVec.shiftLeft_xor_distrib]
  generalize c <<< 1 = x
  generalize d <<< 1 = y
  have hc : x ^^^ y ^^^ 0x1021 = x ^^^ 0x1021 ^^^ y := by
    rw [BitVec.xor_assoc, BitVec.xor_comm y, BitVec.xor_assoc]
  cases c.getLsbD 15 <;> cases d.getLsbD 15
  · rfl
  · exact BitVec.xor_assoc ..
  · exact hc
  · show x ^^^ y = x ^^^ 0x1021 ^^^ (y ^^^ 0x1021)
    rw [← BitVec.xor_assoc, ← hc, BitVec.xor_assoc, BitVec.xor_self, BitVec.xor_zero]

theorem crcBits_xor (n : Nat) (c d : Crc) : crcBits n (c ^^^ d) = crcBits n c ^^^ crcBits n d := by
  induction n generalizing c d with
  | zero => rfl
  | succ n ih => rw [crcBits_succ, crcBits_succ, crcBits_succ, crcBit_xor, ih]

@[simp] theorem checksumBytes_length (p : List Byte) : (checksumBytes p).length = 2 := rfl

@[simp] theorem frame_length (p : List Byte) : (frame p).length = p.length + 3 := by
  simp [frame]

/-- The bytes before the checksum are the framed bytes. -/
theorem frame_take (p : List Byte) : (frame p).take p.length = p := by
  simp [frame]

end Sys2Proof.Machine
end

