-- ==== Sys2Proof/Laws/Decode.lean ====
section
/-!
SUPPORT. The decoder, said once: the outcome of each check (30_encoding.md R86), and the fields of a word.
-/

namespace Sys2Proof

theorem decode_undefined (w : Word) (h : commandOf (opcField w) (immField w) = none) :
    decode w = .error .illegalOpcode := by
  simp only [decode, h]

theorem decode_reserved (w : Word) (i : Instr) (h : commandOf (opcField w) (immField w) = some i)
    (hr : rsvField w ≠ 0) : decode w = .error .reservedNonzero := by
  simp only [decode, h]
  exact if_pos hr

theorem decode_operandless (w : Word) (i : Instr) (h : commandOf (opcField w) (immField w) = some i)
    (hr : rsvField w = 0) (hi : i.hasOperand = false) (hm : immField w ≠ 0) :
    decode w = .error .reservedNonzero := by
  simp only [decode, h]
  rw [if_neg (not_not_intro hr)]
  exact if_pos ⟨hi, hm⟩

theorem decode_command (w : Word) (i : Instr) (h : commandOf (opcField w) (immField w) = some i)
    (hr : rsvField w = 0) (hm : i.hasOperand = true ∨ immField w = 0) : decode w = .instr i := by
  simp only [decode, h]
  rw [if_neg (not_not_intro hr)]
  refine if_neg fun hc => ?_
  rcases hm with hm | hm
  · rw [hm] at hc
    exact absurd hc.1 (by decide)
  · exact hc.2 hm

/-- Everything decoding can give: each check in its order, then the command (30_encoding.md R86). -/
theorem decode_cases (w : Word) :
    (commandOf (opcField w) (immField w) = none ∧ decode w = .error .illegalOpcode) ∨
      ∃ i, commandOf (opcField w) (immField w) = some i ∧
        ((rsvField w ≠ 0 ∧ decode w = .error .reservedNonzero) ∨
          (rsvField w = 0 ∧ i.hasOperand = false ∧ immField w ≠ 0 ∧ decode w = .error .reservedNonzero) ∨
          (rsvField w = 0 ∧ (i.hasOperand = true ∨ immField w = 0) ∧ decode w = .instr i)) := by
  cases h : commandOf (opcField w) (immField w) with
  | none => exact .inl ⟨rfl, decode_undefined w h⟩
  | some i =>
    refine .inr ⟨i, rfl, ?_⟩
    by_cases hr : rsvField w = 0
    · by_cases hi : i.hasOperand = true ∨ immField w = 0
      · exact .inr (.inr ⟨hr, hi, decode_command w i h hr hi⟩)
      · have hi' : i.hasOperand = false := Bool.eq_false_iff.mpr fun hc => hi (.inl hc)
        have hm : immField w ≠ 0 := fun hc => hi (.inr hc)
        exact .inr (.inl ⟨hr, hi', hm, decode_operandless w i h hr hi' hm⟩)
    · exact .inl ⟨hr, decode_reserved w i h hr⟩

/-- A word is its three fields (30_encoding.md R80). -/
theorem word_of_fields (w : Word) : opcField w ++ rsvField w ++ immField w = w := by
  unfold opcField rsvField immField
  apply BitVec.eq_of_getLsbD_eq
  intro i hi
  simp only [BitVec.getLsbD_append, BitVec.getLsbD_extractLsb']
  by_cases h1 : i < 8
  · simp [h1]
  · by_cases h2 : i < 24
    · simp [h1, show i - 8 < 16 by omega, show 8 + (i - 8) = i by omega]
    · simp [h1, show ¬ i - 8 < 16 by omega, show i - 8 - 16 < 8 by omega, show 24 + (i - 8 - 16) = i by omega]

/-- What the opcode map gives for a code is a command of that code, with the operand byte where it takes one. -/
theorem commandOf_fields (o m : Byte) (i : Instr) (h : commandOf o m = some i) :
    i.opcode = o ∧ (i.hasOperand = true → i.imm8 = m) ∧ (i.hasOperand = false → i.imm8 = 0) := by
  unfold commandOf at h
  repeat' split at h
  all_goals
    first
    | simp only [Option.some.injEq] at h
      subst h
      subst_vars
      exact ⟨rfl, by simp [Instr.hasOperand, Instr.imm8], by simp [Instr.hasOperand, Instr.imm8]⟩
    | simp at h

end Sys2Proof
end

