-- ==== Sys2Proof/Laws/Text.lean ====
section
/-!
SUPPORT. The text steps of the parser: decode, strip and split (43_parser.md R164, R165, R167).
-/

namespace Sys2Proof.Machine

@[simp] theorem decodeText_nil (drop : Bool) : decodeText [] drop = [] := rfl

@[simp] theorem decodeText_cons (b : Byte) (rx : List Byte) (drop : Bool) :
    decodeText (b :: rx) drop = decodeByte drop b ++ decodeText rx drop := rfl

/-- A byte decodes to at most one character. -/
theorem decodeByte_length_le (drop : Bool) (b : Byte) : (decodeByte drop b).length ≤ 1 := by
  unfold decodeByte
  split
  · simp
  · split <;> simp

/-- The text is no longer than the raw response. -/
theorem decodeText_length_le (rx : List Byte) (drop : Bool) : (decodeText rx drop).length ≤ rx.length := by
  induction rx with
  | nil => simp
  | cons b rx ih =>
    have := decodeByte_length_le drop b
    simp only [decodeText_cons, List.length_append, List.length_cons]
    omega

theorem stripStart_suffix (t : List Chr) : stripStart t <:+ t := List.dropWhile_suffix _

theorem stripEnd_prefix (t : List Chr) : stripEnd t <+: t := by
  have h : t.reverse.dropWhile isStripped <:+ t.reverse := List.dropWhile_suffix _
  simpa [stripEnd] using List.reverse_prefix.mpr h

/-- Stripping never lengthens a text. -/
theorem strip_length_le (t : List Chr) : (strip t).length ≤ t.length :=
  (stripEnd_prefix _).length_le.trans (stripStart_suffix t).length_le

@[simp] theorem split_nil : split [] = [[]] := rfl

theorem split_space (u : List Chr) : split (chrSpace :: u) = [] :: split u := by
  simp [split]

theorem split_other (c : Chr) (u : List Chr) (h : c ≠ chrSpace) : split (c :: u) = consToken c (split u) := by
  simp [split, h]

/-- A text has at least one token. -/
theorem split_ne_nil (u : List Chr) : split u ≠ [] := by
  cases u with
  | nil => simp
  | cons c u =>
    simp only [split]
    split
    · simp
    · cases split u <;> simp [consToken]

theorem consToken_length (c : Chr) (toks : List (List Chr)) (h : toks ≠ []) :
    (consToken c toks).length = toks.length := by
  cases toks with
  | nil => exact absurd rfl h
  | cons tok toks => rfl

/-- `k` characters split into at most `k + 1` tokens (10_state.md R32). -/
theorem split_length_le (u : List Chr) : (split u).length ≤ u.length + 1 := by
  induction u with
  | nil => simp
  | cons c u ih =>
    by_cases h : c = chrSpace
    · subst h
      rw [split_space]
      simp only [List.length_cons]
      omega
    · rw [split_other c u h, consToken_length c _ (split_ne_nil u)]
      simp only [List.length_cons]
      omega

theorem split_length_pos (u : List Chr) : 0 < (split u).length :=
  List.length_pos_iff.mpr (split_ne_nil u)

end Sys2Proof.Machine
end

