-- ==== Sys2Proof/Laws/Parser.lean ====
section
/-!
SUPPORT. Token conversion and the parse function, said once each: what a conversion can give, which field fails first, what
a parse can return (43_parser.md R171 to R175).
-/

namespace Sys2Proof.Machine

/-- The range check: a value inside the range, or OUT_OF_RANGE (43_parser.md R172). -/
theorem ranged_cases (v : Int) (n : Nat) :
    (-2147483648 ≤ v ∧ v ≤ 2147483647 ∧ ranged v n = .value v n) ∨
      ((v < -2147483648 ∨ 2147483647 < v) ∧ ranged v n = .fail .outOfRange) := by
  unfold ranged Config.sigMin Config.sigMax
  by_cases h : v < -2147483648 ∨ v > 2147483647
  · exact .inr ⟨h, if_pos h⟩
  · exact .inl ⟨by omega, by omega, if_neg h⟩

/-- What converting an integer token can give (43_parser.md R172). -/
theorem convInt_cases (tok : List Chr) :
    (∃ v, -2147483648 ≤ v ∧ v ≤ 2147483647 ∧ convInt tok = .value v 0) ∨ convInt tok = .fail .notNumeric ∨
      convInt tok = .fail .outOfRange := by
  unfold convInt
  split
  · exact .inr (.inl rfl)
  · exact .inr (.inl rfl)
  · rcases ranged_cases _ 0 with ⟨h1, h2, h⟩ | ⟨_, h⟩
    · exact .inl ⟨_, h1, h2, h⟩
    · exact .inr (.inr h)

/-- What converting a float token can give (43_parser.md R173). -/
theorem convFloat_cases (tok : List Chr) :
    (∃ v n, -2147483648 ≤ v ∧ v ≤ 2147483647 ∧ n ≤ 9 ∧ convFloat tok = .value v n) ∨
      convFloat tok = .fail .notNumeric ∨ convFloat tok = .fail .outOfRange := by
  unfold convFloat
  split
  · exact .inr (.inl rfl)
  · rename_i whole frac _
    by_cases hf : frac.length > Config.scalemax
    · exact .inr (.inr (if_pos hf))
    · rw [if_neg hf]
      rcases ranged_cases (signed (splitSign tok).1 (decimal (whole ++ frac))) frac.length with ⟨h1, h2, h⟩ | ⟨_, h⟩
      · exact .inl ⟨_, _, h1, h2, by simpa [Config.scalemax] using hf, h⟩
      · exact .inr (.inr h)

/-- What converting a field can give: a significand in the 32-bit range with a scale of at most 9, or one of the two
failures (43_parser.md R171). -/
theorem convField_cases (toks : List (List Chr)) (k : Fin 10) :
    (∃ v n, -2147483648 ≤ v ∧ v ≤ 2147483647 ∧ n ≤ 9 ∧ ((schema[k]).2 = .integer → n = 0) ∧
        convField toks k = .value v n) ∨
      convField toks k = .fail .notNumeric ∨ convField toks k = .fail .outOfRange := by
  unfold convField
  cases hty : (schema[k]).2 with
  | integer =>
    rcases convInt_cases (fieldToken toks k) with ⟨v, h1, h2, h⟩ | h | h
    · exact .inl ⟨v, 0, h1, h2, by omega, fun _ => rfl, h⟩
    · exact .inr (.inl h)
    · exact .inr (.inr h)
  | float =>
    rcases convFloat_cases (fieldToken toks k) with ⟨v, n, h1, h2, h3, h⟩ | h | h
    · exact .inl ⟨v, n, h1, h2, h3, (nomatch ·), h⟩
    · exact .inr (.inl h)
    · exact .inr (.inr h)

/-- No field of a list fails exactly when every one of them converts. -/
theorem firstFailure_none (toks : List (List Chr)) (ks : List (Fin 10)) :
    firstFailure toks ks = none ↔ ∀ k ∈ ks, ∃ v n, convField toks k = .value v n := by
  induction ks with
  | nil => simp [firstFailure]
  | cons k ks ih =>
    cases h : convField toks k with
    | fail c => simp [firstFailure, h]
    | value v n => simp [firstFailure, h, ih]

/-- The first failing field of a list: it fails, and every one before it converts. -/
theorem firstFailure_some (toks : List (List Chr)) (ks : List (Fin 10)) (k : Fin 10) (c : Reason)
    (h : firstFailure toks ks = some (k, c)) :
    convField toks k = .fail c ∧
      ∃ pre post, ks = pre ++ k :: post ∧ ∀ j ∈ pre, ∃ v n, convField toks j = .value v n := by
  induction ks with
  | nil => simp [firstFailure] at h
  | cons j ks ih =>
    cases hj : convField toks j with
    | fail d =>
      simp only [firstFailure, hj, Option.some.injEq, Prod.mk.injEq] at h
      obtain ⟨rfl, rfl⟩ := h
      exact ⟨hj, [], ks, rfl, by simp⟩
    | value v n =>
      simp only [firstFailure, hj] at h
      obtain ⟨h1, pre, post, rfl, h2⟩ := ih h
      refine ⟨h1, j :: pre, post, rfl, ?_⟩
      intro i hi
      rcases List.mem_cons.mp hi with rfl | hi
      · exact ⟨v, n, hj⟩
      · exact h2 i hi

theorem mem_fieldOrder (k : Fin 10) : k ∈ fieldOrder := by
  revert k
  decide

/-- What the tail of a parse can return, once the text is split (43_parser.md R168, R174, R175). -/
theorem parseTokens_cases (toks : List (List Chr)) :
    (toks.length < 13 ∧ parseTokens toks = emptyResult .fewTokens 0 toks.length) ∨
      (13 ≤ toks.length ∧ ∃ k c, firstFailure toks fieldOrder = some (k, c) ∧
        (c = .notNumeric ∨ c = .outOfRange) ∧ parseTokens toks = emptyResult c k.val toks.length) ∨
      (13 ≤ toks.length ∧ firstFailure toks fieldOrder = none ∧ parseTokens toks = recordResult toks) := by
  unfold parseTokens
  by_cases hn : toks.length < Config.ntokmin
  · exact .inl ⟨hn, if_pos hn⟩
  · rw [if_neg hn]
    have hn' : 13 ≤ toks.length := Nat.not_lt.mp hn
    cases hf : firstFailure toks fieldOrder with
    | none => exact .inr (.inr ⟨hn', rfl, rfl⟩)
    | some r =>
      obtain ⟨k, d⟩ := r
      refine .inr (.inl ⟨hn', k, d, rfl, ?_, rfl⟩)
      have h1 := (firstFailure_some _ _ _ _ hf).1
      rcases convField_cases toks k with ⟨v, n, _, _, _, _, h⟩ | h | h <;> rw [h] at h1 <;> cases h1
      · exact .inl rfl
      · exact .inr rfl

/-- What a parse can return: NO_START when the stripped text does not begin with `(`, else what its tokens give
(43_parser.md R174). -/
theorem parse_cases (rx : List Byte) (drop : Bool) :
    (parse rx drop = emptyResult .noStart 0 0 ∧ ∀ u, strip (decodeText rx drop) ≠ chrOpen :: u) ∨
      ∃ u, strip (decodeText rx drop) = chrOpen :: u ∧ parse rx drop = parseTokens (split u) := by
  unfold parse
  cases strip (decodeText rx drop) with
  | nil => exact .inl ⟨rfl, by simp⟩
  | cons c u =>
    by_cases hc : c = chrOpen
    · exact .inr ⟨u, by rw [hc], if_pos hc⟩
    · exact .inl ⟨if_neg hc, by simp [hc]⟩

theorem parse_ntok_le (rx : List Byte) (drop : Bool) : (parse rx drop).ntok ≤ rx.length := by
  have h1 := decodeText_length_le rx drop
  have h2 := strip_length_le (decodeText rx drop)
  rcases parse_cases rx drop with ⟨h, _⟩ | ⟨u, hu, h⟩
  · simp [h, emptyResult]
  · have h3 := split_length_le u
    have h4 : u.length + 1 ≤ rx.length := by
      rw [hu] at h2
      simpa using h2.trans h1
    rw [h]
    rcases parseTokens_cases (split u) with ⟨_, h⟩ | ⟨_, k, c, _, _, h⟩ | ⟨_, _, h⟩ <;> rw [h] <;>
      simp only [emptyResult, recordResult] <;> omega

end Sys2Proof.Machine
end

