-- ==== Sys2Proof/Certificates/Slice0/Obligations.lean ====
section
/-!
DEFINITION. The statements about the block, one per definition. OBLIGATIONS.json says of each which rule of spec/ it formalises.
-/

open Sys2Proof Sys2Proof.Machine

/-! ### Command encoding (30_encoding.md) -/

/-- Every instruction decodes from the word the encoder writes for it, with every operand value. -/
def Obligations.DecodeOfEncodeIsInstruction : Prop :=
  ∀ i : Instr, i.wellFormed = true → decode (encode i) = .instr i

/-- A word that decodes is the encoding of what it decodes to: no bit of the word is dropped. -/
def Obligations.EncodeOfDecodeIsWord : Prop :=
  ∀ (w : Word) (i : Instr), decode w = .instr i → encode i = w

/-- R82: the rows of the table, that they do not overlap, and that a word decodes to a command exactly when a row selects
it, to a command of that row. -/
def Obligations.OpcodeTableSelectsCommand : Prop :=
  opcodeTable =
      [⟨"NOP", 0x00000000, 0xFFFFFFFF⟩, ⟨"ERRCLR", 0x01000000, 0xFFFFFFFF⟩, ⟨"SRESET", 0x02000000, 0xFFFFFFFF⟩,
       ⟨"CRC.CLR", 0x10000000, 0xFFFFFFFF⟩, ⟨"CRC.BYTE", 0x11000000, 0xFFFFFF00⟩, ⟨"FRM.CLR", 0x20000000, 0xFFFFFFFF⟩,
       ⟨"FRM.PUSH", 0x21000000, 0xFFFFFF00⟩, ⟨"FRM.BUILD", 0x22000000, 0xFFFFFFFF⟩, ⟨"RX.CLR", 0x30000000, 0xFFFFFFFF⟩,
       ⟨"RX.PUSH", 0x31000000, 0xFFFFFF00⟩, ⟨"PARSE", 0x32000000, 0xFFFFFFFF⟩] ∧
    (∀ (w : Word) (q r : OpcodeRow), q ∈ opcodeTable → r ∈ opcodeTable → w &&& q.mask = q.pattern →
      w &&& r.mask = r.pattern → q = r) ∧
    ∀ (w : Word) (r : OpcodeRow), r ∈ opcodeTable →
      (w &&& r.mask = r.pattern ↔ ∃ i, decode w = .instr i ∧ i.row = r)

/-- A word of each unit, written out from the format and the opcode map, decodes to its command. -/
def Obligations.SampleWordsDecode : Prop :=
  decode 0x00000000 = .instr .nop ∧ decode 0x01000000 = .instr .errclr ∧ decode 0x02000000 = .instr .sreset ∧
    decode 0x110000B7 = .instr (.crcByte 0xB7) ∧ decode 0x21000051 = .instr (.frmPush 0x51) ∧
    decode 0x22000000 = .instr .frmBuild ∧ decode 0x31000028 = .instr (.rxPush 0x28) ∧
    decode 0x32000000 = .instr .parse

/-- R87: an undefined operation code raises ILLEGAL_OPCODE whatever the other bits; nonzero reserved bits raise
RESERVED_NONZERO; the only no-op is the word 0. -/
def Obligations.IllegalEncodingsRaise : Prop :=
  ∀ (w : Word) (s : State),
    ((0x03 ≤ opcField w ∧ opcField w ≤ 0x0F) ∨ (0x12 ≤ opcField w ∧ opcField w ≤ 0x1F) ∨
        (0x23 ≤ opcField w ∧ opcField w ≤ 0x2F) ∨ 0x33 ≤ opcField w →
      execute w s = .next (s.recordError .illegalOpcode)) ∧
    (∀ i, commandOf (opcField w) (immField w) = some i →
      rsvField w ≠ 0 ∨ (i.hasOperand = false ∧ immField w ≠ 0) →
      execute w s = .next (s.recordError .reservedNonzero)) ∧
    (decode w = .instr .nop ↔ w = 0x00000000)

/-- R84, R85: reserved bits of a defined operation code must be 0. -/
def Obligations.ReservedBitsRaise : Prop :=
  ∀ (w : Word) (s : State),
    (opcField w ∈ ([0x00, 0x01, 0x02, 0x10, 0x20, 0x22, 0x30, 0x32] : List Byte) → rsvField w = 0 → immField w ≠ 0 →
      execute w s = .next (s.recordError .reservedNonzero)) ∧
    (opcField w ∈ ([0x00, 0x01, 0x02, 0x10, 0x11, 0x20, 0x21, 0x22, 0x30, 0x31, 0x32] : List Byte) → rsvField w ≠ 0 →
      execute w s = .next (s.recordError .reservedNonzero))

/-- R86: `Execute(w)`, run for each write of `w` to CMD, for every word: the checks in the order written, then the command
of the operation code. -/
def Obligations.ExecuteChecksThenRuns : Prop :=
  ∀ (w : Word) (s : State),
    opcField w = w.extractLsb 31 24 ∧ rsvField w = w.extractLsb 23 8 ∧ immField w = w.extractLsb 7 0 ∧
    memWrite 0x010 w s = execute w s ∧
    (opcField w ∉ ([0x00, 0x01, 0x02, 0x10, 0x11, 0x20, 0x21, 0x22, 0x30, 0x31, 0x32] : List Byte) →
      execute w s = raise .illegalOpcode s) ∧
    (opcField w ∈ ([0x00, 0x01, 0x02, 0x10, 0x11, 0x20, 0x21, 0x22, 0x30, 0x31, 0x32] : List Byte) →
      (rsvField w ≠ 0 → execute w s = raise .reservedNonzero s) ∧
      (rsvField w = 0 → opcField w ∉ ([0x11, 0x21, 0x31] : List Byte) → immField w ≠ 0 →
        execute w s = raise .reservedNonzero s) ∧
      (rsvField w = 0 → opcField w ∈ ([0x11, 0x21, 0x31] : List Byte) ∨ immField w = 0 →
        (opcField w = 0x00 → execute w s = exec .nop s) ∧
        (opcField w = 0x01 → execute w s = exec .errclr s) ∧
        (opcField w = 0x02 → execute w s = exec .sreset s) ∧
        (opcField w = 0x10 → execute w s = exec .crcClr s) ∧
        (opcField w = 0x11 → execute w s = exec (.crcByte (immField w)) s) ∧
        (opcField w = 0x20 → execute w s = exec .frmClr s) ∧
        (opcField w = 0x21 → execute w s = exec (.frmPush (immField w)) s) ∧
        (opcField w = 0x22 → execute w s = exec .frmBuild s) ∧
        (opcField w = 0x30 → execute w s = exec .rxClr s) ∧
        (opcField w = 0x31 → execute w s = exec (.rxPush (immField w)) s) ∧
        (opcField w = 0x32 → execute w s = exec .parse s)))

/-- The access each line of a command program denotes, and the expansion of the pseudo-instructions. -/
def Obligations.ProgramLinesDenoteAccesses : Prop :=
  (∀ i : Instr, lineAccess (.command i) = some { op := .write (encode i), off := 0x010, size := .four }) ∧
    (∀ (r : Reg) (off : Offset) (v : Word), regOffset r = some off →
      lineAccess (.wr r v) = some { op := .write v, off := off, size := .four } ∧
        lineAccess (.rd r) = some { op := .read, off := off, size := .four }) ∧
    ∀ p : List Byte,
      expand (.crcstr p) = [.crcClr] ++ p.map Instr.crcByte ∧
        expand (.frame p) = [.frmClr] ++ p.map Instr.frmPush ++ [.frmBuild] ∧
        expand (.rxbytes p) = [.rxClr] ++ p.map Instr.rxPush ∧ expand (.rxstr p) = [.rxClr] ++ p.map Instr.rxPush

/-! ### Registers and the bus (10_state.md, 20_memory.md) -/

/-- R23, R24: ID and CAPS are constants that no write changes. -/
def Obligations.IdAndCapsAreConstant : Prop :=
  ∀ (s : State) (v : Word),
    memRead 0x000 s = 0x45504531 ∧ memWrite 0x000 v s = .next s ∧ memRead 0x004 s = 0x0A802320 ∧
      memWrite 0x004 v s = .next s ∧ (memRead 0x004 s).extractLsb 7 0 = 32 ∧ (memRead 0x004 s).extractLsb 15 8 = 35 ∧
      (memRead 0x004 s).extractLsb 23 16 = 128 ∧ (memRead 0x004 s).extractLsb 31 24 = 10

/-- The fields of STATUS, each at its bits, and that a write is ignored. -/
def Obligations.StatusWordHoldsFlags : Prop :=
  ∀ s : State,
    (memRead 0x00C s).getLsbD 0 = s.err ∧ (memRead 0x00C s).getLsbD 1 = s.eovf ∧
      (memRead 0x00C s).extractLsb' 2 2 = 0 ∧ (memRead 0x00C s).extractLsb' 4 4 = s.ecause ∧
      (memRead 0x00C s).getLsbD 8 = decide (s.payload.length = 32) ∧
      (memRead 0x00C s).getLsbD 9 = decide (s.rx.length = 128) ∧
      (memRead 0x00C s).getLsbD 10 = decide (s.tx.length ≠ 0) ∧ (memRead 0x00C s).extractLsb' 11 21 = 0 ∧
      ∀ v, memWrite 0x00C v s = .next s

/-- The fields of PRES, each at its bits, and that a write is ignored. -/
def Obligations.PresWordHoldsResult : Prop :=
  ∀ s : State,
    (memRead 0x024 s).getLsbD 0 = s.valid ∧ (memRead 0x024 s).extractLsb' 1 3 = 0 ∧
      (memRead 0x024 s).extractLsb' 4 4 = s.reason ∧ (memRead 0x024 s).extractLsb' 8 4 = s.fidx ∧
      (memRead 0x024 s).extractLsb' 12 4 = 0 ∧ (memRead 0x024 s).extractLsb' 16 8 = s.ntok ∧
      (memRead 0x024 s).extractLsb' 24 8 = 0 ∧ ∀ v, memWrite 0x024 v s = .next s

/-- CTRL reads DROP, CRC the accumulator, and the length registers the buffers' lengths, exact while the buffers keep
their bounds. -/
def Obligations.ControlAndLengthRegistersRead : Prop :=
  ∀ s : State,
    memRead 0x008 s = (if s.drop then 1 else 0) ∧ memRead 0x010 s = 0 ∧ (memRead 0x014 s).extractLsb' 0 16 = s.crc ∧
      (memRead 0x014 s).extractLsb' 16 16 = 0 ∧
      (s.buffersBounded → (memRead 0x018 s).toNat = s.payload.length ∧ (memRead 0x01C s).toNat = s.tx.length ∧
        (memRead 0x020 s).toNat = s.rx.length)

/-- The field registers at their offsets, for every field, read only. -/
def Obligations.FieldRegistersRead : Prop :=
  ∀ (s : State) (k : Fin 10) (v : Word),
    memRead (BitVec.ofNat 12 (0x040 + 4 * k.val)) s = s.fval[k] ∧
      (memRead (BitVec.ofNat 12 (0x080 + 4 * k.val)) s).extractLsb' 0 4 = s.fscl[k] ∧
      (memRead (BitVec.ofNat 12 (0x080 + 4 * k.val)) s).extractLsb' 4 28 = 0 ∧
      memWrite (BitVec.ofNat 12 (0x040 + 4 * k.val)) v s = .next s ∧
      memWrite (BitVec.ofNat 12 (0x080 + 4 * k.val)) v s = .next s

/-- R37, R38, R65: window byte `i` stands in byte lane `i mod 4` of window word `i / 4`, is the buffer's byte or 0 past its
length, and no write changes it; the QPIGS frame's two words. -/
def Obligations.WindowsAreLittleEndianBuffers : Prop :=
  (∀ (s : State) (i : Fin 256) (v : Word),
    (memRead (BitVec.ofNat 12 (0x100 + 4 * (i.val / 4))) s).extractLsb' (8 * (i.val % 4)) 8 =
        (if h : i.val < s.tx.length then s.tx[i.val] else 0) ∧
      (memRead (BitVec.ofNat 12 (0x200 + 4 * (i.val / 4))) s).extractLsb' (8 * (i.val % 4)) 8 =
        (if h : i.val < s.rx.length then s.rx[i.val] else 0) ∧
      memWrite (BitVec.ofNat 12 (0x100 + 4 * (i.val / 4))) v s = .next s ∧
      memWrite (BitVec.ofNat 12 (0x200 + 4 * (i.val / 4))) v s = .next s) ∧
    (∀ (buf : List Byte) (j : Fin 64) (lane : Fin 4),
      (winWord buf (4 * j.val)).extractLsb' (8 * lane.val) 8 = buf.getD (4 * j.val + lane.val) 0) ∧
    ∀ s : State, s.tx = [0x51, 0x50, 0x49, 0x47, 0x53, 0xB7, 0xA9, 0x0D] →
      memRead 0x100 s = 0x47495051 ∧ memRead 0x104 s = 0x0DA9B753

/-- R39: every reserved offset reads 0 and ignores writes. -/
def Obligations.ReservedOffsetsReadZero : Prop :=
  ∀ (s : State) (o : Nat) (v : Word), o % 4 = 0 →
    (0x028 ≤ o ∧ o ≤ 0x03C) ∨ (0x068 ≤ o ∧ o ≤ 0x07C) ∨ (0x0A8 ≤ o ∧ o ≤ 0x0FC) ∨ (0x300 ≤ o ∧ o ≤ 0xFFC) →
    memRead (BitVec.ofNat 12 o) s = 0x00000000 ∧ memWrite (BitVec.ofNat 12 o) v s = .next s

/-- Every register and window word has an offset, which is aligned and leads back to it, and every aligned offset that is not
reserved is the offset of the one it names. -/
def Obligations.RegisterMapRoundTrip : Prop :=
  (∀ r : Reg, r ≠ .reserved → ∃ off, regOffset r = some off) ∧
    (∀ (r : Reg) (off : Offset), regOffset r = some off → regAt off = r ∧ aligned off) ∧
    ∀ off : Offset, aligned off → regAt off ≠ .reserved → regOffset (regAt off) = some off

/-- R44, R231: the reset values; each of the three reset sources sets every element to them, so that every register reads its
reset value, and an SRESET has its effect when its write completes. The input events are the model's (log 3, log 5). -/
def Obligations.EveryResetSourceSetsResetValues : Prop :=
  State.reset.atResetValues ∧
    (∀ t : State, t.atResetValues → ∀ off, aligned off →
      memRead off t = if off = 0x000 then 0x45504531 else if off = 0x004 then 0x0A802320 else 0x00000000) ∧
    ∀ s : State,
      (∃ t, exec .sreset s = .next t ∧ t.atResetValues) ∧ (∃ t, takeInput .resetAssert s = .next t ∧ t.atResetValues) ∧
        (∃ t, takeInput .powerUp s = .next t ∧ t.atResetValues) ∧
        ∀ rest, s.resetLine = false → s.inbox = .access (cmdWrite 0x02000000) :: rest →
          ∃ t, step s = .next t ∧ t.atResetValues ∧ t.inbox = rest

/-- R64: an aligned 32-bit write is answered OK; it stores DROP at CTRL, executes a command word at CMD, and has no effect
anywhere else. -/
def Obligations.WritesActAtCtrlAndCmdOnly : Prop :=
  ∀ (s : State) (v : Word) (off : Offset), aligned off →
    ∃ t r, runAccess { op := .write v, off := off, size := .four } s = .next t ∧ t.outbox = s.outbox ++ [r] ∧
      r.status = .ok ∧ t.inbox = s.inbox ∧ t.resetLine = s.resetLine ∧
      (off = 0x008 → t.sameElements { s with drop := v.getLsbD 0 }) ∧
      (off = 0x010 → ∃ u, execute v s = .next u ∧ t.sameElements u) ∧ (off ≠ 0x008 → off ≠ 0x010 → t.sameElements s)

/-- R63: an access that is narrow or misaligned is answered BusError, with read data 0 for a read, and changes no element:
at CMD it executes no command and records no error. -/
def Obligations.MisalignedOrNarrowAccessIsBusError : Prop :=
  ∀ (s : State) (a : Access) (rest : List Input), s.resetLine = false → s.inbox = .access a :: rest →
    a.size ≠ .four ∨ ¬ aligned a.off →
    ∃ t r, step s = .next t ∧ t.outbox = s.outbox ++ [r] ∧ r.status = .busError ∧
      (a.op = .read → r.rdata = some 0x00000000) ∧ t.sameElements s ∧ t.resetLine = false ∧ t.inbox = rest

/-- An aligned 32-bit read is answered OK with the register's value and changes no element. -/
def Obligations.ReadAnswersWithoutEffect : Prop :=
  ∀ (s : State) (off : Offset) (rest : List Input), s.resetLine = false → aligned off →
    s.inbox = .access { op := .read, off := off, size := .four } :: rest →
    step s = .next { s with inbox := rest, outbox := s.outbox ++ [⟨.ok, some (memRead off s)⟩] }

/-- A system address in the window of 4096 offsets at BASE reaches the block at its offset, any other does not (BASE is an
argument, log 7). -/
def Obligations.SystemAddressReachesWindowOffset : Prop :=
  ∀ (base : Nat) (op : BusOp) (size : AccessSize),
    (∀ off : Offset, Access.atSystemAddress base (base + off.toNat) op size =
      some { op := op, off := off, size := size }) ∧
    ∀ addr : Nat, addr < base ∨ base + 4096 ≤ addr → Access.atSystemAddress base addr op size = none

/-! ### The step (20_memory.md section 5, 70_reset_and_hazards.md) -/

/-- When the oldest input is a write of a word to CMD and the reset input is released, the step executes the instruction
the word decodes to, at that state, then gives the answer and takes the input; a word that does not decode records its
cause. The pending list and the answers are the model's (log 1, log 2). -/
def Obligations.StepRunsDecodedCommand : Prop :=
  ∀ (s : State) (w : Word) (rest : List Input), s.resetLine = false → s.inbox = .access (cmdWrite w) :: rest →
    (∀ i, decode w = .instr i →
      step s = mapNext (fun t => (t.answer ⟨.ok, none⟩).setInbox rest) (exec i s)) ∧
    (∀ c, decode w = .error c →
      step s = .next (((s.recordError c).answer ⟨.ok, none⟩).setInbox rest))

/-- Every command, every command word and every step has a next state; with nothing pending the block holds its state
(log 6). -/
def Obligations.EveryStepCompletes : Prop :=
  (∀ (i : Instr) (s : State), ∃ t, exec i s = .next t) ∧ (∀ (w : Word) (s : State), ∃ t, execute w s = .next t) ∧
    (∀ s : State, ∃ t, step s = .next t) ∧ ∀ s : State, s.inbox = [] → step s = .next s

/-- Inputs take effect one at a time in order: what the first ones do does not depend on the ones after them, which stay
pending (log 1). -/
def Obligations.LaterInputsDoNotAffectEarlier : Prop :=
  ∀ (s : State) (first later : List Input),
    ∃ t, run first.length { s with inbox := first } = .next t ∧ t.inbox = [] ∧
      run first.length { s with inbox := first ++ later } = .next { t with inbox := later }

/-- The first access accepted after a hardware reset sees the reset state, whatever accesses the host made while the reset
input was asserted and whatever they were answered (log 3, log 4). -/
def Obligations.FirstAccessAfterResetSeesResetState : Prop :=
  ∀ (s : State) (turned : List Access) (rest : List Input),
    s.inbox = .resetAssert :: turned.map Input.access ++ .resetRelease :: rest →
    ∃ t, run (turned.length + 2) s = .next t ∧ t.atResetValues ∧ t.resetLine = false ∧ t.inbox = rest

/-! ### Control commands (40_control.md) -/

/-- R100: NOP. -/
def Obligations.NopChangesNothing : Prop :=
  ∀ s : State, exec .nop s = .next s ∧ encode .nop = 0x00000000 ∧ execute 0x00000000 s = .next s ∧
    ∀ nn : Byte, nn ≠ 0 → execute (nn.setWidth 32) s = raise .reservedNonzero s

/-- R101: ERRCLR clears the error record and nothing else; a malformed one does not clear. -/
def Obligations.ErrclrClearsErrorRecord : Prop :=
  ∀ s : State,
    exec .errclr s = .next { s with err := false, eovf := false, ecause := 0 } ∧ encode .errclr = 0x01000000 ∧
      (∀ w, opcField w = 0x01 → rsvField w ≠ 0 ∨ immField w ≠ 0 → execute w s = raise .reservedNonzero s) ∧
      (s.errorLegal → s.err = false → exec .errclr s = .next s) ∧
      (memRead 0x00C s = 0x00000031 → ∃ t, execute 0x01000000 s = .next t ∧ memRead 0x00C t = 0x00000000)

/-- SRESET (40_control.md, R102) sets every element to its reset value, and a malformed one does not reset. That power-up is
the same function of the state, the level of the reset input included, is the model's choice (log 5). -/
def Obligations.SresetResetsEveryElement : Prop :=
  ∀ s : State,
    exec .sreset s =
        .next { State.reset with resetLine := s.resetLine, inbox := s.inbox, outbox := s.outbox } ∧
      encode .sreset = 0x02000000 ∧ takeInput .powerUp s = exec .sreset s ∧
      (∀ w, opcField w = 0x02 → rsvField w ≠ 0 ∨ immField w ≠ 0 → execute w s = raise .reservedNonzero s) ∧
      ∀ t off, exec .sreset s = .next t → aligned off → memRead off t = memRead off State.reset

/-! ### Checksum Engine (41_checksum.md) -/

/-- R123, R141, R160: the three clear commands, what each writes, that nothing else changes, and what then reads 0. -/
def Obligations.ClearCommandsEmptyTheirUnit : Prop :=
  ∀ s : State,
    (exec .crcClr s = .next { s with crc := checksum [] } ∧ encode .crcClr = 0x10000000 ∧
      ∀ t, exec .crcClr s = .next t → t.crc = 0x0000 ∧ memRead 0x014 t = 0x00000000) ∧
    (exec .frmClr s = .next { s with payload := [], tx := [] } ∧ encode .frmClr = 0x20000000 ∧
      ∀ t, exec .frmClr s = .next t → memRead 0x018 t = 0 ∧ memRead 0x01C t = 0 ∧
        (memRead 0x00C t).getLsbD 8 = false ∧ (memRead 0x00C t).getLsbD 10 = false ∧
        ∀ j : Fin 64, memRead (BitVec.ofNat 12 (0x100 + 4 * j.val)) t = 0) ∧
    (exec .rxClr s = .next { s with rx := [] } ∧ encode .rxClr = 0x30000000 ∧
      ∀ t, exec .rxClr s = .next t → memRead 0x020 t = 0 ∧ (memRead 0x00C t).getLsbD 9 = false ∧
        memRead 0x024 t = memRead 0x024 s ∧ ∀ j : Fin 64, memRead (BitVec.ofNat 12 (0x200 + 4 * j.val)) t = 0)

/-- R124: CRC.BYTE folds its byte, any value, into the accumulator and changes nothing else; the rule's worked values. -/
def Obligations.CrcByteFoldsOneByte : Prop :=
  (∀ (s : State) (b : Byte),
    exec (.crcByte b) s = .next { s with crc := crcStep s.crc b } ∧
      encode (.crcByte b) = 0x11000000 ||| b.setWidth 32) ∧
    (∀ c d : Crc, ∀ b e : Byte, c ^^^ (b.setWidth 16 <<< 8) = d ^^^ (e.setWidth 16 <<< 8) → crcStep c b = crcStep d e) ∧
    crcStep 0x0000 0x00 = 0x0000 ∧ crcStep 0xFFFF 0x00 = 0xE1F0 ∧ crcStep 0x0000 0xFF = 0x1EF0 ∧
    crcStep 0x8000 0x00 = 0x9188 ∧ crcStep 0x0000 0x80 = 0x9188 ∧ crcStep 0x0000 0x51 = 0x4AD4

/-- R120: one byte step is the rule's pseudocode, on unbounded numbers with its explicit mask. -/
def Obligations.CrcStepFollowsPseudocode : Prop :=
  ∀ (c : Crc) (b : Byte),
    (crcStep c b).toNat =
      (List.range 8).foldl
        (fun x _ => (if x &&& 0x8000 ≠ 0 then (x * 2) ^^^ 0x1021 else x * 2) &&& 0xFFFF) (c.toNat ^^^ (b.toNat * 256))

/-- R125: the six properties of the checksum and its accumulator. -/
def Obligations.ChecksumProperties : Prop :=
  (∀ (s : State) (is : List Instr), (∀ i ∈ is, i ≠ .crcClr ∧ i ≠ .sreset) →
    ∃ t, run (is.length + 1) (s.withCommands (.crcClr :: is)) = .next t ∧ t.inbox = [] ∧
      t.crc = checksum (crcOperands is)) ∧
    checksum [] = 0x0000 ∧ (∀ p q : List Byte, checksum (p ++ q) = q.foldl crcStep (checksum p)) ∧
    (crcStep 0x0000 0x00 = 0x0000 ∧ ∀ p : List Byte, checksum ([0x00] ++ p) = checksum p) ∧
    (∀ p : List Byte, checksum (p ++ checksumBytes p) = 0x0000) ∧
    ∀ p : List Byte, (checksumBytes p).length = 2 ∧ checksumBytes p = [(checksum p).extractLsb 15 8, (checksum p).extractLsb 7 0]

/-- R126: the framer's checksum is computed afresh over the payload, and no framer command reads or writes the accumulator. -/
def Obligations.FramerKeepsOffAccumulator : Prop :=
  (∀ s : State, ∃ t, exec .frmBuild s = .next t ∧
      t.tx = s.payload ++ [(s.payload.foldl crcStep 0x0000).extractLsb 15 8,
        (s.payload.foldl crcStep 0x0000).extractLsb 7 0] ++ [0x0D]) ∧
    ∀ (s : State) (c : Crc) (b : Byte) (i : Instr), i = .frmClr ∨ i = .frmPush b ∨ i = .frmBuild →
      ∃ t, exec i s = .next t ∧ t.crc = s.crc ∧ exec i { s with crc := c } = .next { t with crc := c }

/-! ### Command Framer (42_framer.md) -/

/-- R140: the frame's layout and length, and the QPIGS frame. -/
def Obligations.FrameLayout : Prop :=
  (∀ p : List Byte, allAscii p →
    frame p = p ++ [(checksum p).extractLsb 15 8, (checksum p).extractLsb 7 0] ++ [0x0D] ∧
      (frame p).length = p.length + 3) ∧
    frame [0x51, 0x50, 0x49, 0x47, 0x53] = [0x51, 0x50, 0x49, 0x47, 0x53, 0xB7, 0xA9, 0x0D]

/-- R142: FRM.PUSH refuses a byte above 0x7F, then a full payload, else appends its byte; nothing else changes. -/
def Obligations.FrmPushAppendsAsciiByte : Prop :=
  ∀ (s : State) (b : Byte),
    encode (.frmPush b) = 0x21000000 ||| b.setWidth 32 ∧
      (b > 0x7F → exec (.frmPush b) s = raise .nonAscii s) ∧
      (b ≤ 0x7F → s.payload.length = 32 → exec (.frmPush b) s = raise .payloadFull s) ∧
      (b ≤ 0x7F → s.payload.length ≠ 32 → exec (.frmPush b) s = .next { s with payload := s.payload ++ [b] }) ∧
      (b ≤ 0x7F → s.payload.length = 31 → ∃ t, exec (.frmPush b) s = .next t ∧ (memRead 0x00C t).getLsbD 8 = true) ∧
      (∀ t, exec (.frmPush b) s = .next t → t.tx = s.tx) ∧
      (∃ t, execute 0x21000051 State.reset = .next t ∧ memRead 0x018 t = 1) ∧
      ∃ t, execute 0x210000B7 State.reset = .next t ∧ memRead 0x018 t = 0 ∧ memRead 0x00C t = 0x00000031

/-- R143: FRM.BUILD writes the frame of the payload and nothing else; the payload is kept. -/
def Obligations.FrmBuildWritesFrame : Prop :=
  (∀ s : State, exec .frmBuild s = .next { s with tx := frame s.payload } ∧ encode .frmBuild = 0x22000000) ∧
    (∀ s t : State, s.Legal → exec .frmBuild s = .next t →
      allAscii s.payload ∧ t.tx.length ≤ 35 ∧ (memRead 0x01C t).toNat = (memRead 0x018 t).toNat + 3 ∧
        (memRead 0x00C t).getLsbD 10 = true ∧ exec .frmBuild t = .next t) ∧
    (∀ s t : State, exec .frmBuild s = .next t → s.payload = [] → t.tx = [0x00, 0x00, 0x0D]) ∧
    ∀ s t : State, exec .frmBuild s = .next t → s.payload = [0x51, 0x50, 0x49, 0x47, 0x53] →
      t.tx = [0x51, 0x50, 0x49, 0x47, 0x53, 0xB7, 0xA9, 0x0D] ∧ memRead 0x01C t = 8

/-- R144: after any list of commands on a block without a frame, there is still no frame, or it is the frame of the payload
held at the last FRM.BUILD among them. Malformed words and other accesses do not stand in such a list. -/
def Obligations.FrameIsOfPayloadAtLastBuild : Prop :=
  ∀ (s : State) (is : List Instr), s.tx = [] →
    ∃ t, run is.length (s.withCommands is) = .next t ∧
      (t.tx = [] ∨ ∃ (before after : List Instr) (u : State), is = before ++ .frmBuild :: after ∧ .frmBuild ∉ after ∧
        run before.length (s.withCommands before) = .next u ∧ t.tx = frame u.payload)

/-- The expansion of FRAME, from any state, leaves the payload and its frame, and changes nothing else but the model's
pending list and answers (log 1, log 2). -/
def Obligations.FrameSequenceBuildsFrame : Prop :=
  ∀ (s : State) (p : List Byte), allAscii p → p.length ≤ 32 →
    run (p.length + 2) (s.withCommands (expand (.frame p))) =
      .next { s with
        payload := p, tx := frame p, resetLine := false, inbox := [], outbox := s.outbox ++ okAnswers (p.length + 2) }

/-! ### Response Parser (43_parser.md) -/

/-- R161: RX.PUSH appends its byte, any value, until 128 are held; then it raises RX_FULL. Nothing else changes. -/
def Obligations.RxPushAppendsByte : Prop :=
  ∀ (s : State) (b : Byte),
    encode (.rxPush b) = 0x31000000 ||| b.setWidth 32 ∧
      (s.rx.length = 128 → exec (.rxPush b) s = raise .rxFull s ∧ ∀ t, exec (.rxPush b) s = .next t → t.rx = s.rx) ∧
      (s.rx.length ≠ 128 → exec (.rxPush b) s = .next { s with rx := s.rx ++ [b] }) ∧
      (s.rx.length = 127 → ∃ t, exec (.rxPush b) s = .next t ∧ (memRead 0x00C t).getLsbD 9 = true) ∧
      ∃ t, execute 0x31000028 State.reset = .next t ∧ memRead 0x020 t = 1 ∧ memRead 0x200 t = 0x00000028

/-- R162, R207: PARSE writes the PRES fields and all ten field registers from the parse, zeros when it is EMPTY, and
nothing else; the code of each outcome; an EMPTY result sets no error; an empty buffer gives NO_START. -/
def Obligations.ParseWritesResultAndFields : Prop :=
  encode .parse = 0x32000000 ∧
  ∀ s : State,
    ∃ t, exec .parse s = .next t ∧
      t = { s with
        valid := (parse s.rx s.drop).valid, reason := (parse s.rx s.drop).reason.code,
        fidx := BitVec.ofNat 4 (parse s.rx s.drop).fidx, ntok := BitVec.ofNat 8 (parse s.rx s.drop).ntok,
        fval := t.fval, fscl := t.fscl } ∧
      t.err = s.err ∧ t.eovf = s.eovf ∧ t.ecause = s.ecause ∧
      ((parse s.rx s.drop).reason = .ok → t.reason = 1) ∧ ((parse s.rx s.drop).reason = .noStart → t.reason = 2) ∧
      ((parse s.rx s.drop).reason = .fewTokens → t.reason = 3) ∧
      ((parse s.rx s.drop).reason = .notNumeric → t.reason = 4) ∧
      ((parse s.rx s.drop).reason = .outOfRange → t.reason = 5) ∧ t.reason ≠ 0 ∧
      (t.valid = true → ∀ k : Fin 10, t.fval[k] = BitVec.ofInt 32 ((parse s.rx s.drop).fields[k]).1 ∧
        t.fscl[k] = BitVec.ofNat 4 ((parse s.rx s.drop).fields[k]).2) ∧
      (t.valid = false → ∀ k : Fin 10, t.fval[k] = 0 ∧ t.fscl[k] = 0) ∧
      (s.rx = [] → t.valid = false ∧ t.reason = 2) ∧
      (s.rx = exampleReply → memRead 0x024 t = 0x000D0011 ∧ t.fval[0] = 2301 ∧ t.fscl[0] = 1)

/-- A record delivers each field's exact value: the registers hold the converted significand and scale, unwrapped. -/
def Obligations.RecordDeliversExactValues : Prop :=
  ∀ (s : State) (u : List Chr), strip (decodeText s.rx s.drop) = chrOpen :: u →
    ∃ t, exec .parse s = .next t ∧ (t.valid = true →
      ∀ k : Fin 10, ∃ (sig : Int) (scl : Nat), convField (split u) k = .value sig scl ∧
        -(2 ^ 31) ≤ sig ∧ sig ≤ 2 ^ 31 - 1 ∧ scl ≤ 9 ∧ (t.fval[k]).toInt = sig ∧ (t.fscl[k]).toNat = scl)

/-- R164: the lossy decode, under both policies. -/
def Obligations.LossyDecodeFollowsPolicy : Prop :=
  ∀ rx : List Byte,
    decodeText rx false = rx.map (fun b => if b ≤ 0x7F then Chr.ascii (b.setWidth 7) else Chr.repl) ∧
      decodeText rx true = (rx.filter (fun b => b ≤ 0x7F)).map (fun b => Chr.ascii (b.setWidth 7)) ∧
      ∀ b ∈ rx, b ≤ 0x7F → (b.setWidth 7 : BitVec 7).toNat = b.toNat

/-- R165: the strip removes exactly the longest runs of NUL, LF and CR at both ends. -/
def Obligations.StripRemovesEndRunsOnly : Prop :=
  (∀ c : Chr, isStripped c = true ↔ c = .ascii 0x00 ∨ c = .ascii 0x0A ∨ c = .ascii 0x0D) ∧
    ∀ t : List Chr, ∃ before after : List Chr, t = before ++ strip t ++ after ∧
      (∀ c ∈ before, isStripped c = true) ∧ (∀ c ∈ after, isStripped c = true) ∧
      (∀ c, (strip t).head? = some c → isStripped c = false) ∧ ∀ c, (strip t).getLast? = some c → isStripped c = false

/-- R166: a text that does not start with `(`, or is empty, gives EMPTY with NO_START; so does one with a space, a tab or
REPL before the `(`. -/
def Obligations.TextWithoutOpeningIsNoStart : Prop :=
  ∀ s : State,
    ((∀ u, strip (decodeText s.rx s.drop) ≠ .ascii 0x28 :: u) →
      ∃ t, exec .parse s = .next t ∧ t.valid = false ∧ t.reason = 2 ∧ t.fidx = 0 ∧ t.ntok = 0) ∧
    (∀ (before after : List Chr) (c : Chr), c = .ascii 0x20 ∨ c = .ascii 0x09 ∨ c = .repl →
      (∀ x ∈ before, isStripped x = true) → decodeText s.rx s.drop = before ++ c :: after →
      ∃ t, exec .parse s = .next t ∧ t.valid = false ∧ t.reason = 2)

/-- R167: after one `(` is dropped, every space ends a token: the tokens hold no space, joined by single spaces they give
the text back, there is one more of them than spaces, and they are what the rule's loop builds. -/
def Obligations.SplitCutsAtEverySpace : Prop :=
  ∀ u : List Chr,
    parseText (.ascii 0x28 :: u) = parseTokens (split u) ∧ (∀ tok ∈ split u, .ascii 0x20 ∉ tok) ∧
      List.intercalate [.ascii 0x20] (split u) = u ∧ (split u).length = u.count (.ascii 0x20) + 1 ∧
      split u = u.foldl (fun toks c =>
        if c = .ascii 0x20 then toks ++ [[]] else toks.dropLast ++ [toks.getLastD [] ++ [c]]) [[]]

/-- R168, R170: fewer than 13 tokens give EMPTY with FEW_TOKENS and the count; with 13 or more, only the ten surfaced
tokens matter: any other token, and any token past index 12, leaves the result as it is but for the count. -/
def Obligations.OnlySurfacedTokensAreExamined : Prop :=
  (∀ (s : State) (u : List Chr), strip (decodeText s.rx s.drop) = chrOpen :: u →
    ∃ t, exec .parse s = .next t ∧
      ((split u).length < 13 → t.valid = false ∧ t.reason = 3 ∧ t.fidx = 0 ∧ t.ntok = BitVec.ofNat 8 (split u).length ∧
        ∀ k : Fin 10, t.fval[k] = 0 ∧ t.fscl[k] = 0) ∧
      (13 ≤ (split u).length → t.reason ≠ 3)) ∧
    ∀ a b : List (List Chr), 13 ≤ a.length → 13 ≤ b.length →
      (∀ n ∈ ([0, 1, 2, 3, 4, 5, 8, 9, 10, 12] : List Nat), a[n]? = b[n]?) →
      parseTokens a = { parseTokens b with ntok := a.length }

/-- R172: an integer token converts when it is an optional sign and at least one digit, to the digits' exact value with
scale 0, or OUT_OF_RANGE; any other token is NOT_NUMERIC. -/
def Obligations.IntegerTokenConversion : Prop :=
  (∀ (sign : List Chr) (ds : List (Fin 10)), isSign sign → ds ≠ [] →
    convInt (sign ++ ds.map digitChr) = significand sign ds 0) ∧
    ∀ tok : List Chr, (∀ (sign : List Chr) (ds : List (Fin 10)), isSign sign → ds ≠ [] → tok ≠ sign ++ ds.map digitChr) →
      convInt tok = .fail .notNumeric

/-- R173: a float token converts when it matches FLOAT, to its digits' exact value with the number of fraction digits as
scale, or OUT_OF_RANGE for more than 9 of them or a value out of range; any other token is NOT_NUMERIC. -/
def Obligations.FloatTokenConversion : Prop :=
  (∀ (sign : List Chr) (whole : List (Fin 10)) (frac : Option (List (Fin 10))), isSign sign → isFloatBody whole frac →
    convFloat (sign ++ floatBody whole frac) =
      if (frac.getD []).length > 9 then .fail .outOfRange
      else significand sign (whole ++ frac.getD []) (frac.getD []).length) ∧
    ∀ tok : List Chr,
      (∀ (sign : List Chr) (whole : List (Fin 10)) (frac : Option (List (Fin 10))), isSign sign → isFloatBody whole frac →
        tok ≠ sign ++ floatBody whole frac) →
      convFloat tok = .fail .notNumeric

/-- R169, R174: the whole parse: NO_START, FEW_TOKENS, the first field in ascending order whose conversion fails, or the
record of the ten converted fields; each field takes its token by the schema. -/
def Obligations.ParseReportsFirstFailureOrRecord : Prop :=
  (∀ (toks : List (List Chr)) (k : Fin 10),
    convField toks k =
      if k = 4 ∨ k = 5 ∨ k = 7 ∨ k = 9 then convInt (toks.getD (([0, 1, 2, 3, 4, 5, 8, 9, 10, 12] : List Nat).getD k.val 0) [])
      else convFloat (toks.getD (([0, 1, 2, 3, 4, 5, 8, 9, 10, 12] : List Nat).getD k.val 0) [])) ∧
    ∀ (rx : List Byte) (drop : Bool),
      ((∀ u, strip (decodeText rx drop) ≠ chrOpen :: u) → parse rx drop = emptyResult .noStart 0 0) ∧
      ∀ u, strip (decodeText rx drop) = chrOpen :: u →
        ((split u).length < 13 → parse rx drop = emptyResult .fewTokens 0 (split u).length) ∧
        (13 ≤ (split u).length → ∀ (k : Fin 10) (c : Reason), convField (split u) k = .fail c →
          (∀ j : Fin 10, j < k → ∃ sig scl, convField (split u) j = .value sig scl) →
          parse rx drop = emptyResult c k.val (split u).length) ∧
        (13 ≤ (split u).length → ∀ f : Vector (Int × Nat) 10,
          (∀ k : Fin 10, convField (split u) k = .value (f[k]).1 (f[k]).2) →
          parse rx drop = { valid := true, reason := .ok, fidx := 0, ntok := (split u).length, fields := f })

/-- R176: PARSE reads the raw response and the policy and nothing else, and leaves both; two PARSEs with no RX.CLR, RX.PUSH,
CTRL write or SRESET between them leave the same result, whatever other accesses stand between them. -/
def Obligations.ParseReadsOnlyReplyAndPolicy : Prop :=
  (∀ s q : State, s.rx = q.rx → s.drop = q.drop →
    ∃ t r, exec .parse s = .next t ∧ exec .parse q = .next r ∧ t.valid = r.valid ∧ t.reason = r.reason ∧
      t.fidx = r.fidx ∧ t.ntok = r.ntok ∧ t.fval = r.fval ∧ t.fscl = r.fscl ∧
      t = { s with valid := t.valid, reason := t.reason, fidx := t.fidx, ntok := t.ntok, fval := t.fval, fscl := t.fscl }) ∧
    ∀ (s : State) (between : List Access) (rest : List Input), s.resetLine = false →
      s.inbox = .access (cmdWrite 0x32000000) :: between.map Input.access ++ .access (cmdWrite 0x32000000) :: rest →
      (∀ a ∈ between, ∀ v, a.op = .write v → a.off ≠ 0x008 ∧
        (a.off = 0x010 → decode v ≠ .instr .rxClr ∧ decode v ≠ .instr .sreset ∧ ∀ b, decode v ≠ .instr (.rxPush b))) →
      ∃ t r, run 1 s = .next t ∧ run (between.length + 2) s = .next r ∧
        t.valid = r.valid ∧ t.reason = r.reason ∧ t.fidx = r.fidx ∧ t.ntok = r.ntok ∧ t.fval = r.fval ∧ t.fscl = r.fscl

/-- The expansion of RXBYTES followed by PARSE, from any state, leaves the reply and its parse under the policy in force,
and changes nothing else but the model's pending list and answers (log 1, log 2). -/
def Obligations.PushedReplyIsParsed : Prop :=
  ∀ (s : State) (bs : List Byte), bs.length ≤ 128 →
    run (bs.length + 2) (s.withCommands (expand (.rxbytes bs) ++ [.parse])) =
      .next { (s.setParse (parse bs s.drop)) with
        rx := bs, resetLine := false, inbox := [], outbox := s.outbox ++ okAnswers (bs.length + 2) }

/-! ### Errors (60_exceptions.md) -/

/-- R202, R205: the first error since the last clear sets ERR and its cause; any further ones set EOVF, keep the cause and
leave one record; nothing else is saved. The code each cause shows in STATUS. -/
def Obligations.ErrorEntryRecordsFirstCause : Prop :=
  (∀ s : State, s.err = false →
    (∃ t, raise .illegalOpcode s = .next t ∧ (memRead 0x00C t).extractLsb' 4 4 = 1) ∧
      (∃ t, raise .reservedNonzero s = .next t ∧ (memRead 0x00C t).extractLsb' 4 4 = 2) ∧
      (∃ t, raise .nonAscii s = .next t ∧ (memRead 0x00C t).extractLsb' 4 4 = 3) ∧
      (∃ t, raise .payloadFull s = .next t ∧ (memRead 0x00C t).extractLsb' 4 4 = 4) ∧
      ∃ t, raise .rxFull s = .next t ∧ (memRead 0x00C t).extractLsb' 4 4 = 5) ∧
  ∀ (s : State) (c : Cause),
    (s.err = false → raise c s = .next { s with err := true, ecause := c.code }) ∧
      (s.err = true → raise c s = .next { s with eovf := true }) ∧
      ∀ cs : List Cause, s.err = false → cs ≠ [] →
        cs.foldl State.recordError (s.recordError c) = { s with err := true, eovf := true, ecause := c.code }

/-- Errors are precise and block nothing: a command word leaves the error record as it was, or is ERRCLR or SRESET, or
does nothing but record an error; and what it does to every other element does not depend on the error record. -/
def Obligations.ErrorsArePreciseAndBlockNothing : Prop :=
  (∀ (w : Word) (s t : State), execute w s = .next t →
    (t.err = s.err ∧ t.eovf = s.eovf ∧ t.ecause = s.ecause) ∨ w = 0x01000000 ∨ w = 0x02000000 ∨
      ∃ (c : Cause) (v : Bool) (k : BitVec 4), t = s.recordError c ∧ t = { s with err := true, eovf := v, ecause := k }) ∧
    ∀ (w : Word) (s : State) (e v : Bool) (k : BitVec 4),
      ∃ t u, execute w s = .next t ∧ execute w { s with err := e, eovf := v, ecause := k } = .next u ∧
        t = { u with err := t.err, eovf := t.eovf, ecause := t.ecause }

/-- R204: ERRCLR, SRESET and hardware reset clear the error record, and nothing else that reaches the block clears any part
of it. -/
def Obligations.OnlyErrclrAndResetsClearErrors : Prop :=
  (∀ s : State, ∀ x : Input, x = .resetAssert ∨ x = .powerUp ∨
      (s.resetLine = false ∧ (x = .access (cmdWrite 0x01000000) ∨ x = .access (cmdWrite 0x02000000))) →
    ∃ t, takeInput x s = .next t ∧ t.err = false ∧ t.eovf = false ∧ t.ecause = 0) ∧
    ∀ (s t : State) (x : Input), takeInput x s = .next t →
      (s.err = true ∧ t.err = false) ∨ (s.eovf = true ∧ t.eovf = false) ∨ (s.ecause ≠ 0 ∧ t.ecause = 0) →
      x = .resetAssert ∨ x = .powerUp ∨ x = .access (cmdWrite 0x01000000) ∨ x = .access (cmdWrite 0x02000000)

/-! ### The whole machine -/

/-- Which commands may write each element of the state; no command touches the model's own fields. -/
def Obligations.OnlyNamedCommandsWriteEachElement : Prop :=
  ∀ (i : Instr) (s : State), ∃ t, exec i s = .next t ∧
    (i ≠ .crcClr → i ≠ .sreset → (∀ b, i ≠ .crcByte b) → t.crc = s.crc) ∧
    (i ≠ .frmClr → i ≠ .sreset → (∀ b, i ≠ .frmPush b) → t.payload = s.payload) ∧
    (i ≠ .frmClr → i ≠ .sreset → i ≠ .frmBuild → t.tx = s.tx) ∧
    (i ≠ .rxClr → i ≠ .sreset → (∀ b, i ≠ .rxPush b) → t.rx = s.rx) ∧
    (i ≠ .sreset → t.drop = s.drop) ∧
    (i ≠ .errclr → i ≠ .sreset → (∀ b, i ≠ .frmPush b) → (∀ b, i ≠ .rxPush b) →
      t.err = s.err ∧ t.eovf = s.eovf ∧ t.ecause = s.ecause) ∧
    (i ≠ .parse → i ≠ .sreset → t.valid = s.valid ∧ t.reason = s.reason ∧ t.fidx = s.fidx ∧ t.ntok = s.ntok ∧
      t.fval = s.fval ∧ t.fscl = s.fscl) ∧
    t.resetLine = s.resetLine ∧ t.inbox = s.inbox ∧ t.outbox = s.outbox

/-- The commands that leave the same state when repeated, the three whose effects accumulate, and a malformed word
repeated. -/
def Obligations.RepeatedCommands : Prop :=
  (∀ i ∈ [Instr.nop, .errclr, .sreset, .crcClr, .frmClr, .frmBuild, .rxClr, .parse], ∀ s : State,
    ∃ t, exec i s = .next t ∧ exec i t = .next t) ∧
    (∀ (s : State) (b : Byte), b ≤ 0x7F → s.payload.length < 31 →
      ∃ t u, exec (.frmPush b) s = .next t ∧ exec (.frmPush b) t = .next u ∧ u.payload = s.payload ++ [b, b]) ∧
    (∀ (s : State) (b : Byte), s.rx.length < 127 →
      ∃ t u, exec (.rxPush b) s = .next t ∧ exec (.rxPush b) t = .next u ∧ u.rx = s.rx ++ [b, b]) ∧
    (∀ (s : State) (b : Byte), ∃ t u, exec (.crcByte b) s = .next t ∧ exec (.crcByte b) t = .next u ∧
      u = { s with crc := crcFold s.crc [b, b] }) ∧
    (∃ t u, exec (.crcByte 0x51) State.reset = .next t ∧ exec (.crcByte 0x51) t = .next u ∧ u.crc ≠ t.crc) ∧
    ∀ (s : State) (w : Word) (c : Cause), decode w = .error c → s.err = false →
      ∃ t u, execute w s = .next t ∧ execute w t = .next u ∧ t.err = true ∧ t.eovf = s.eovf ∧ u.eovf = true ∧
        u.ecause = t.ecause

/-- The seven invariants of 10_state.md R43, with the ranges of the parse result (R32, R33), an ASCII payload, and the hold of
an asserted reset input (the model's, log 3), are kept by every step. -/
def Obligations.LegalStateIsKeptByEveryStep : Prop :=
  ∀ s t : State, s.Legal → step s = .next t → t.Legal

/-- The state after reset is legal. -/
def Obligations.ResetStateIsLegal : Prop :=
  State.reset.Legal
end

