-- ==== Sys2Proof/Laws/PerInstr.lean ====
section
/-!
SUPPORT. One law stated per instruction: the word the encoder writes is the word the assembler's rule gives, and it selects
the instruction's row of the opcode table (30_encoding.md R80, R82, R89).
-/

namespace Sys2Proof.Laws

/-- The encoded word is `match or IMM8`, and it selects the instruction's row. -/
def EncodingSelectsRow.Statement (i : Instr) : Prop :=
  encode i = i.assembled ∧ i.row.selects (encode i) = true

theorem EncodingSelectsRow.nop : EncodingSelectsRow.Statement .nop := by
  unfold EncodingSelectsRow.Statement
  decide

theorem EncodingSelectsRow.errclr : EncodingSelectsRow.Statement .errclr := by
  unfold EncodingSelectsRow.Statement
  decide

theorem EncodingSelectsRow.sreset : EncodingSelectsRow.Statement .sreset := by
  unfold EncodingSelectsRow.Statement
  decide

theorem EncodingSelectsRow.crcClr : EncodingSelectsRow.Statement .crcClr := by
  unfold EncodingSelectsRow.Statement
  decide

theorem EncodingSelectsRow.crcByte (b : Byte) : EncodingSelectsRow.Statement (.crcByte b) := by
  unfold EncodingSelectsRow.Statement
  revert b
  decide +kernel

theorem EncodingSelectsRow.frmClr : EncodingSelectsRow.Statement .frmClr := by
  unfold EncodingSelectsRow.Statement
  decide

theorem EncodingSelectsRow.frmPush (b : Byte) : EncodingSelectsRow.Statement (.frmPush b) := by
  unfold EncodingSelectsRow.Statement
  revert b
  decide +kernel

theorem EncodingSelectsRow.frmBuild : EncodingSelectsRow.Statement .frmBuild := by
  unfold EncodingSelectsRow.Statement
  decide

theorem EncodingSelectsRow.rxClr : EncodingSelectsRow.Statement .rxClr := by
  unfold EncodingSelectsRow.Statement
  decide

theorem EncodingSelectsRow.rxPush (b : Byte) : EncodingSelectsRow.Statement (.rxPush b) := by
  unfold EncodingSelectsRow.Statement
  revert b
  decide +kernel

theorem EncodingSelectsRow.parse : EncodingSelectsRow.Statement .parse := by
  unfold EncodingSelectsRow.Statement
  decide

end Sys2Proof.Laws
end

