-- ==== Sys2Proof/Tests/Slice0.lean ====
section
/-!
SUPPORT. Tests on fixed values. The expected values are those of 95_test_vectors.md (each test names its vectors) or of the
rule it names; after them, one witness for each statement that has hypotheses.
-/

namespace Sys2Proof.Tests

open Sys2Proof.Machine

/-- Whether an outcome is a next state with a property. -/
def holds (o : Host.Outcome State Fault Refusal) (p : State → Bool) : Bool :=
  match o with
  | .next t => p t
  | .fault _ => false
  | .refused _ => false

/-- The state after a list of words is written to CMD, from a state with the reset input released. -/
def afterWords (ws : List Word) (s : State) (p : State → Bool) : Bool :=
  holds (run ws.length { s with resetLine := false, inbox := ws.map fun w => .access (cmdWrite w) }) p

/-- The answer one access gets. -/
def answerOf (a : Access) (s : State) : Option Response :=
  match runAccess a s with
  | .next t => t.outbox.getLast?
  | .fault _ => none
  | .refused _ => none

/-- The bytes of a text: its ASCII codes. -/
def bytes (s : String) : List Byte := s.toList.map fun c => BitVec.ofNat 8 c.toNat

/-- A state with a reply held under a policy. -/
def withReply (rx : List Byte) (drop : Bool) : State := { State.reset with rx := rx, drop := drop }

/-- A state with a payload and an error record. -/
def withPayload (p : List Byte) (err eovf : Bool) (ecause : BitVec 4) : State :=
  { State.reset with payload := p, err := err, eovf := eovf, ecause := ecause }

/-- PRES and the fields after a PARSE of a reply. -/
def parsed (rx : List Byte) (drop : Bool) (pres : Word) (fields : List (Int × Nat)) : Bool :=
  holds (exec .parse (withReply rx drop)) fun t =>
    memRead 0x024 t == pres && t.fval.toList == fields.map (fun f => BitVec.ofInt 32 f.1) &&
      t.fscl.toList == fields.map (fun f => BitVec.ofNat 4 f.2)

/-- The ten zero fields of an EMPTY. -/
def zeros : List (Int × Nat) := List.replicate 10 (0, 0)

/-! ### Well-formedness: a term for each check that refuses one -/

/-- Every command is well formed, whatever its operand byte (30_encoding.md R83); so no term of `Instr` is ill formed. -/
theorem test_every_instr_is_well_formed :
    (∀ i ∈ [Instr.nop, .errclr, .sreset, .crcClr, .frmClr, .frmBuild, .rxClr, .parse], i.wellFormed = true) ∧
      ∀ b : Byte, (Instr.crcByte b).wellFormed = true ∧ (Instr.frmPush b).wellFormed = true ∧
        (Instr.rxPush b).wellFormed = true := by decide +kernel

/-- A row's check refuses a word of another operation code, one with RSV ≠ 0, and one with IMM8 ≠ 0 where there is no operand. -/
theorem test_row_check_refuses : Instr.nop.row.selects 0x01000000 = false ∧ (Instr.rxPush 0).row.selects 0x31000128 = false ∧
    Instr.parse.row.selects 0x32000001 = false := by decide

theorem test_word_with_undefined_opc_is_ill_formed : commandWordWellFormed 0x03000000 = false := by decide
theorem test_word_with_nonzero_rsv_is_ill_formed : commandWordWellFormed 0x11000100 = false := by decide
theorem test_word_with_spare_imm8_is_ill_formed : commandWordWellFormed 0x10000001 = false := by decide
theorem test_word_of_a_command_is_well_formed : commandWordWellFormed 0x110000B7 = true := by decide
theorem test_narrow_access_is_ill_formed : Access.wellFormed ⟨.read, 0x000, .one⟩ = false := by decide
theorem test_misaligned_access_is_ill_formed : Access.wellFormed ⟨.write 0, 0x012, .four⟩ = false := by decide
theorem test_aligned_word_access_is_well_formed : Access.wellFormed ⟨.read, 0xFFC, .four⟩ = true := by decide

/-! ### Decoding: one word of each command, written out as OPC, RSV, IMM8 (30_encoding.md R80, R82) -/

theorem test_decode_nop : decode 0b00000000_0000000000000000_00000000 = .instr .nop := by decide
theorem test_decode_errclr : decode 0b00000001_0000000000000000_00000000 = .instr .errclr := by decide
theorem test_decode_sreset : decode 0b00000010_0000000000000000_00000000 = .instr .sreset := by decide
theorem test_decode_crcClr : decode 0b00010000_0000000000000000_00000000 = .instr .crcClr := by decide
theorem test_decode_crcByte : decode 0b00010001_0000000000000000_10110111 = .instr (.crcByte 0xB7) := by decide
theorem test_decode_frmClr : decode 0b00100000_0000000000000000_00000000 = .instr .frmClr := by decide
theorem test_decode_frmPush : decode 0b00100001_0000000000000000_01010001 = .instr (.frmPush 0x51) := by decide
theorem test_decode_frmBuild : decode 0b00100010_0000000000000000_00000000 = .instr .frmBuild := by decide
theorem test_decode_rxClr : decode 0b00110000_0000000000000000_00000000 = .instr .rxClr := by decide
theorem test_decode_rxPush : decode 0b00110001_0000000000000000_00101000 = .instr (.rxPush 0x28) := by decide
theorem test_decode_parse : decode 0b00110010_0000000000000000_00000000 = .instr .parse := by decide

/-- V-K4, V-K6: the operation code is checked before RSV. -/
theorem test_decode_undefined : decode 0x03000000 = .error .illegalOpcode ∧ decode 0x03000180 = .error .illegalOpcode := by
  decide

/-- V-K2, V-K3, V-K7: reserved bits. -/
theorem test_decode_reserved : decode 0x00000001 = .error .reservedNonzero ∧ decode 0x00000100 = .error .reservedNonzero ∧
    decode 0x21000180 = .error .reservedNonzero := by decide

theorem test_decodeTableWord : decodeTableWord 32 0x21000051 = some (.frmPush 0x51) ∧ decodeTableWord 32 0x03000000 = none := by
  decide

/-! ### Control and errors -/

/-- V-K1. -/
theorem test_nop_changes_nothing : afterWords [0x00000000] State.reset (fun t => memRead 0x00C t == 0) = true := by
  decide +kernel

/-- V-K5. -/
theorem test_undefined_words :
    ([0x0F000000, 0x12000000, 0x1F000000, 0x23000000, 0x2F000000, 0x33000000, 0xFF0000FF] : List Word).all (fun w =>
      afterWords [w] State.reset fun t => memRead 0x00C t == 0x00000011) = true := by decide +kernel

/-- V-K10, V-K11: the first cause is kept. -/
theorem test_second_error_sets_eovf :
    afterWords [0x03000000, 0x210000FF, 0x03000000] State.reset
      (fun t => memRead 0x00C t == 0x00000013 && memRead 0x018 t == 0) = true := by decide +kernel

/-- V-K12. -/
theorem test_errclr_clears :
    afterWords [0x01000000] (withPayload [] true true 1) (fun t => memRead 0x00C t == 0) = true := by decide +kernel

/-- V-K13. -/
theorem test_malformed_errclr_does_not_clear :
    afterWords [0x01000001] (withPayload [] true false 3) (fun t => memRead 0x00C t == 0x00000033) = true := by
  decide +kernel

/-- V-K15. -/
theorem test_error_blocks_nothing :
    afterWords [0x21000051] (withPayload [] true false 3)
      (fun t => memRead 0x00C t == 0x00000031 && memRead 0x018 t == 1) = true := by decide +kernel

/-- The state of V-K16 and V-K17: the QPIGS frame built, CTRL = 1, STATUS = 0x00000431. -/
def builtQpigs : State :=
  { State.reset with
    payload := bytes "QPIGS", tx := [0x51, 0x50, 0x49, 0x47, 0x53, 0xB7, 0xA9, 0x0D], drop := true, err := true,
    ecause := 3 }

/-- V-K16. -/
theorem test_sreset_resets :
    memRead 0x00C builtQpigs = 0x00000431 ∧
      afterWords [0x02000000] builtQpigs (fun t => decide t.atResetValues && memRead 0x008 t == 0 && memRead 0x01C t == 0) =
        true := by decide +kernel

/-- V-K17. -/
theorem test_malformed_sreset_does_not_reset :
    afterWords [0x02000100] builtQpigs
      (fun t => memRead 0x00C t == 0x00000433 && memRead 0x008 t == 1 && memRead 0x01C t == 8) = true := by decide +kernel

/-! ### Checksum Engine -/

/-- V-K9 from V-S3, and CRC.CLR. -/
theorem test_crcClr :
    afterWords [0x11000051, 0x10000001] State.reset (fun t => t.crc == 0x4AD4) = true ∧
      afterWords [0x11000051, 0x10000000] State.reset (fun t => t.crc == 0) = true := by decide +kernel

/-- V-S2, V-S7, V-S9, V-S10. -/
theorem test_crcByte_steps : crcStep 0x0000 0x01 = 0x1021 ∧ crcStep 0xFFFF 0xFF = 0xFF00 ∧ crcStep 0x1234 0x56 = 0x3C40 ∧
    crcStep 0x4AD4 0x50 = 0x677B := by decide +kernel

/-- V-C2, V-C3, V-C9, V-C14, V-C21, V-C23. -/
theorem test_checksum_vectors :
    checksum (bytes "QPIGS") = 0xB7A9 ∧ checksum (bytes "123456789") = 0x31C3 ∧ checksum (bytes "QFLAG") = 0x9874 ∧
      checksum [0xFF, 0xFF] = 0x1D0F ∧ checksum (exampleReply.take 58) = 0x947E ∧ checksum exampleReply = 0x3D2A := by
  decide +kernel

/-! ### Command Framer -/

/-- FRM.CLR discards payload and frame (42_framer.md R141). -/
theorem test_frmClr : afterWords [0x20000000] builtQpigs
    (fun t => memRead 0x018 t == 0 && memRead 0x01C t == 0 && memRead 0x00C t == 0x00000031) = true := by decide +kernel

/-- V-F13, V-F14. -/
theorem test_frmPush_ascii :
    afterWords [0x21000080] State.reset (fun t => memRead 0x018 t == 0 && memRead 0x00C t == 0x00000031) = true ∧
      afterWords [0x2100007F] State.reset (fun t => memRead 0x018 t == 1 && memRead 0x00C t == 0) = true := by decide +kernel

/-- V-F15. -/
theorem test_frmPush_full : afterWords [0x21000051] (withPayload (List.replicate 32 0x51) false false 0)
    (fun t => memRead 0x018 t == 32 && memRead 0x00C t == 0x00000141) = true := by decide +kernel

/-- V-F1, V-F5: the frame through TXWIN, from the whole command sequence. -/
theorem test_frmBuild_qpigs :
    afterWords [0x20000000, 0x21000051, 0x21000050, 0x21000049, 0x21000047, 0x21000053, 0x22000000] State.reset
      (fun t => memRead 0x01C t == 8 && memRead 0x100 t == 0x47495051 && memRead 0x104 t == 0x0DA9B753 &&
        memRead 0x108 t == 0 && memRead 0x00C t == 0x00000400) = true ∧
      frame (bytes "QPIGS2") = [0x51, 0x50, 0x49, 0x47, 0x53, 0x32, 0x68, 0x2D, 0x0D] := by decide +kernel

/-- V-F2, V-F11: the shortest and the longest frame. -/
theorem test_frmBuild_extremes :
    holds (exec .frmBuild State.reset) (fun t => memRead 0x100 t == 0x000D0000 && memRead 0x01C t == 3) = true ∧
      holds (exec .frmBuild (withPayload (List.replicate 32 0x51) false false 0))
        (fun t => memRead 0x120 t == 0x000D8F86 && memRead 0x00C t == 0x00000500 && memRead 0x01C t == 35) = true := by
  decide +kernel

/-! ### Response Parser -/

/-- RX.CLR keeps the parse result (43_parser.md R160). -/
theorem test_rxClr : holds (exec .rxClr { withReply exampleReply false with valid := true, reason := 1, ntok := 13 })
    (fun t => memRead 0x020 t == 0 && memRead 0x024 t == 0x000D0011) = true := by decide +kernel

/-- V-B15, and the 129th byte (43_parser.md R161). -/
theorem test_rxPush :
    afterWords [0x31000028] State.reset (fun t => memRead 0x200 t == 0x00000028 && memRead 0x204 t == 0) = true ∧
      afterWords [0x310000FF] (withReply (List.replicate 128 0) false)
        (fun t => memRead 0x020 t == 128 && memRead 0x00C t == 0x00000251) = true := by decide +kernel

/-- W4, V-P2, V-P27 and V-P16: the source's reply, an empty one, 12 tokens, sign and fraction forms. -/
theorem test_parse_source_and_forms :
    parsed exampleReply false 0x000D0011
        [(2301, 1), (500, 1), (2300, 1), (500, 1), (500, 0), (400, 0), (512, 1), (80, 0), (0, 0), (120, 0)] = true ∧
      parsed [] false 0x00000020 zeros = true ∧
      parsed (bytes "(x 1 1 1 1 1 1 1 1 1 1 1") false 0x000C0030 zeros = true ∧
      parsed (bytes "(-1.5 +50. .5 0 2147483647 -2147483648 a b 0.000000001 +0 -.0 c -0") false 0x000D0011
        [(-15, 1), (50, 0), (5, 1), (0, 0), (2147483647, 0), (-2147483648, 0), (1, 9), (0, 0), (0, 1), (0, 0)] = true := by
  decide +kernel

/-- V-P17 to V-P21, V-P23, V-P24, V-P28, V-P37, V-P41: failures with their field, the policy, an extra token. -/
theorem test_parse_failures :
    parsed (bytes "(230.1 50.0 230.0 50.0 2147483648 0400 00 00 51.2 080 00 00 0120") false 0x000D0450 zeros = true ∧
      parsed (bytes "(230.1 50.0 230.0 50.0 0500 0400 00 00 51.2000000000 080 00 00 0120") false 0x000D0650 zeros = true ∧
      parsed (bytes "(230.1 50.0 230.0 50.0 0500 0400 00 00 51.2 080 00 00 1e3") false 0x000D0940 zeros = true ∧
      parsed (bytes "(21474836.48 50.0 230.0 50.0 0500 0400 00 00 51.2 080 00 00 0120") false 0x000D0050 zeros = true ∧
      parsed (bytes "(1 1 1 1 1 1 1 1 1 1 1 1 1 ") false 0x000E0011 (List.replicate 10 (1, 0)) = true ∧
      parsed (bytes "(1 1 1 1 1 1 1 1 1 1 5" ++ 0xB0 :: bytes "1 1 1") false 0x000D0840 zeros = true ∧
      parsed (bytes "(1 1 1 1 1 1 1 1 1 1 5" ++ 0xB0 :: bytes "1 1 1") true 0x000D0011
        (List.replicate 8 (1, 0) ++ [(51, 0), (1, 0)]) = true ∧
      parsed (bytes "(1 1 1 1 1 1 1 1 1 1 1 1 1" ++ 0x0D :: 0x0A :: bytes "(2") false 0x000D0940 zeros = true ∧
      parsed (bytes "(1 1 1 . 1 1 1 1 1 1 1 1 1") false 0x000D0340 zeros = true ∧
      parsed (bytes "(1.0000000000x 1 1 1 1 1 1 1 1 1 1 1 1") false 0x000D0040 zeros = true := by decide +kernel

/-! ### The bus -/

/-- V-B1, V-B2, V-B4, V-B5, V-B6. -/
theorem test_reads :
    answerOf ⟨.read, 0x000, .four⟩ builtQpigs = some ⟨.ok, some 0x45504531⟩ ∧
      answerOf ⟨.read, 0x004, .four⟩ builtQpigs = some ⟨.ok, some 0x0A802320⟩ ∧
      answerOf ⟨.read, 0xFFC, .four⟩ builtQpigs = some ⟨.ok, some 0⟩ ∧
      answerOf ⟨.read, 0x001, .four⟩ builtQpigs = some ⟨.busError, some 0⟩ ∧
      answerOf ⟨.read, 0x102, .two⟩ builtQpigs = some ⟨.busError, some 0⟩ := by decide +kernel

/-- V-B7, V-B8. -/
theorem test_bad_writes_execute_nothing :
    holds (runAccess ⟨.write 0x0051, 0x010, .two⟩ State.reset) (fun t => decide t.atResetValues) = true ∧
      holds (runAccess ⟨.write 0x21000051, 0x012, .four⟩ State.reset) (fun t => decide t.atResetValues) = true := by
  decide +kernel

/-- V-B10, V-B11, V-B12. -/
theorem test_ctrl_and_status_writes :
    holds (runAccess ⟨.write 0xFFFFFFFF, 0x008, .four⟩ State.reset) (fun t => memRead 0x008 t == 1) = true ∧
      holds (runAccess ⟨.write 0xFFFFFFFE, 0x008, .four⟩ builtQpigs) (fun t => memRead 0x008 t == 0) = true ∧
      holds (runAccess ⟨.write 0, 0x00C, .four⟩ builtQpigs) (fun t => memRead 0x00C t == 0x00000431) = true := by
  decide +kernel

/-- An access made while the reset input is asserted does not act (70_reset_and_hazards.md R232). -/
theorem test_reset_holds_the_block (a : Access) : holds (takeInput (.access a) (State.reset.setResetLine true))
    (fun t => decide t.atResetValues && t.resetLine) = true := by
  rcases turnAway_cases a (State.reset.setResetLine true) with h | ⟨r, h⟩
  · have e : takeInput (.access a) (State.reset.setResetLine true) = .next (turnAway a (State.reset.setResetLine true)) := rfl
    rw [e, h]
    decide +kernel
  · have e : takeInput (.access a) (State.reset.setResetLine true) = .next (turnAway a (State.reset.setResetLine true)) := rfl
    rw [e, h]
    rfl

/-- The step after `withFetchWord` executes the word. -/
theorem test_withFetchWord : holds (step (State.reset.withFetchWord 32 0x21000051)) (fun t => t.payload == [0x51]) = true := by
  decide +kernel

/-! ### Program text (30_encoding.md R89, R90) -/

theorem test_line_command : assembleLine "FRM.PUSH ';' ; 0x2100003B".toList = some [.command (.frmPush 0x3B)] := by
  decide +kernel

theorem test_line_wr_rd :
    assembleLine "WR CMD, 0x05000000".toList = some [.wr .cmd 0x05000000] ∧
      assembleLine "RD TXWIN[1]".toList = some [.rd (.txwin 1)] ∧ assembleLine "RD FVAL[10]".toList = none := by
  decide +kernel

theorem test_line_pseudo :
    assembleLine "FRAME \"QI\"".toList =
        some [.command .frmClr, .command (.frmPush 0x51), .command (.frmPush 0x49), .command .frmBuild] ∧
      assembleLine "RXSTR \"(\\r\\x41\"".toList =
        some [.command .rxClr, .command (.rxPush 0x28), .command (.rxPush 0x0D), .command (.rxPush 0x41)] ∧
      assembleLine "RXBYTES 1, 0xFF, 'a'".toList =
        some [.command .rxClr, .command (.rxPush 1), .command (.rxPush 0xFF), .command (.rxPush 0x61)] := by
  decide +kernel

/-! ### Witnesses: concrete values that meet each statement's hypotheses -/

theorem test_witness_DecodeOfEncode :
    Instr.nop.wellFormed = true ∧ (Instr.crcByte 0x00).wellFormed = true ∧ (Instr.rxPush 0xFF).wellFormed = true := by decide

theorem test_witness_EncodeOfDecode : decode 0x210000FF = .instr (.frmPush 0xFF) := by decide

theorem test_witness_OpcodeTable :
    (Instr.rxPush 0).row ∈ opcodeTable ∧ (0x310000FF : Word) &&& (Instr.rxPush 0).row.mask = (Instr.rxPush 0).row.pattern := by
  decide

/-- Both ends of each range of undefined codes; a defined code with RSV ≠ 0, and one with a spare IMM8 ≠ 0. -/
theorem test_witness_IllegalEncodings :
    (([0x03, 0x0F, 0x12, 0x1F, 0x23, 0x2F, 0x33, 0xFF] : List Byte).all fun o =>
        (0x03 ≤ o && o ≤ 0x0F) || (0x12 ≤ o && o ≤ 0x1F) || (0x23 ≤ o && o ≤ 0x2F) || 0x33 ≤ o) = true ∧
      opcField 0x03000000 = 0x03 ∧ opcField 0x0F000000 = 0x0F ∧ opcField 0x33000000 = 0x33 ∧
      commandOf (opcField 0x00000100) (immField 0x00000100) = some .nop ∧ rsvField 0x00000100 ≠ 0 ∧
      commandOf (opcField 0x320000FF) (immField 0x320000FF) = some .parse ∧ Instr.parse.hasOperand = false ∧
      immField 0x320000FF ≠ 0 := by decide

theorem test_witness_ReservedBits :
    opcField 0x32000001 ∈ ([0x00, 0x01, 0x02, 0x10, 0x20, 0x22, 0x30, 0x32] : List Byte) ∧ rsvField 0x32000001 = 0 ∧
      immField 0x32000001 ≠ 0 ∧
      opcField 0x11FFFF00 ∈ ([0x00, 0x01, 0x02, 0x10, 0x11, 0x20, 0x21, 0x22, 0x30, 0x31, 0x32] : List Byte) ∧
      rsvField 0x11FFFF00 ≠ 0 := by decide

/-- An undefined code; RSV ≠ 0; a spare IMM8; and a command of each kind that runs. -/
theorem test_witness_ExecuteChecks :
    opcField 0x33000000 ∉ ([0x00, 0x01, 0x02, 0x10, 0x11, 0x20, 0x21, 0x22, 0x30, 0x31, 0x32] : List Byte) ∧
      (opcField 0x21000180 = 0x21 ∧ rsvField 0x21000180 ≠ 0) ∧
      (opcField 0x00000001 = 0x00 ∧ rsvField 0x00000001 = 0 ∧ immField 0x00000001 ≠ 0) ∧
      (rsvField 0x11000080 = 0 ∧ opcField 0x11000080 = 0x11) ∧ (rsvField 0x31000080 = 0 ∧ opcField 0x31000080 = 0x31) ∧
      (rsvField 0x32000000 = 0 ∧ opcField 0x32000000 = 0x32 ∧ immField 0x32000000 = 0) := by decide

theorem test_witness_ProgramLines :
    regOffset .id = some 0x000 ∧ regOffset (.fval 9) = some 0x064 ∧ regOffset (.rxwin 63) = some 0x2FC := by decide

theorem test_witness_ControlAndLength :
    State.reset.buffersBounded ∧
      ({ State.reset with payload := List.replicate 32 0, tx := List.replicate 35 0, rx := List.replicate 128 0 } :
        State).buffersBounded := by decide +kernel

theorem test_witness_Windows : builtQpigs.tx = [0x51, 0x50, 0x49, 0x47, 0x53, 0xB7, 0xA9, 0x0D] := by decide

/-- Both ends of each range of reserved offsets. -/
theorem test_witness_ReservedOffsets :
    ([0x028, 0x03C, 0x068, 0x07C, 0x0A8, 0x0FC, 0x300, 0xFFC] : List Nat).all (fun o =>
      o % 4 == 0 && ((0x028 ≤ o && o ≤ 0x03C) || (0x068 ≤ o && o ≤ 0x07C) || (0x0A8 ≤ o && o ≤ 0x0FC) ||
        (0x300 ≤ o && o ≤ 0xFFC))) = true := by decide

theorem test_witness_RegisterMap :
    Reg.rxwin 63 ≠ .reserved ∧ regOffset (.txwin 63) = some 0x1FC ∧ aligned 0x2FC ∧ regAt 0x2FC ≠ .reserved ∧ aligned 0x000 ∧
      regAt 0x000 ≠ .reserved := by decide

theorem test_witness_EveryResetSource :
    State.reset.atResetValues ∧ aligned 0x000 ∧ aligned 0xFFC ∧ builtQpigs.resetLine = false ∧
      ({ builtQpigs with inbox := [.access (cmdWrite 0x02000000)] } : State).inbox = .access (cmdWrite 0x02000000) :: [] := by
  decide

theorem test_witness_Writes : aligned 0x008 ∧ aligned 0x010 ∧ aligned 0x00C ∧ (0x00C : Offset) ≠ 0x008 ∧ (0x00C : Offset) ≠ 0x010 := by
  decide

/-- A state with one access pending. -/
def pending (a : Access) : State := { State.reset with inbox := [.access a] }

theorem test_witness_MisalignedOrNarrow :
    (pending ⟨.read, 0x000, .one⟩).resetLine = false ∧
      (pending ⟨.read, 0x000, .one⟩).inbox = .access ⟨.read, 0x000, .one⟩ :: [] ∧ (AccessSize.one ≠ .four) ∧
      (pending ⟨.write 0, 0x013, .four⟩).inbox = .access ⟨.write 0, 0x013, .four⟩ :: [] ∧ ¬ aligned 0x013 := by decide

theorem test_witness_ReadAnswers :
    (pending ⟨.read, 0xFFC, .four⟩).resetLine = false ∧ aligned 0xFFC ∧
      (pending ⟨.read, 0xFFC, .four⟩).inbox = .access { op := .read, off := 0xFFC, size := .four } :: [] := by decide

theorem test_witness_SystemAddress : (0xFFF : Nat) < 0x1000 ∧ (0x1000 : Nat) + 4096 ≤ 0x2000 := by decide

theorem test_witness_StepRuns :
    (pending (cmdWrite 0x31000028)).resetLine = false ∧
      (pending (cmdWrite 0x31000028)).inbox = .access (cmdWrite 0x31000028) :: [] ∧
      decode 0x31000028 = .instr (.rxPush 0x28) ∧ decode 0xFF000000 = .error .illegalOpcode := by decide

theorem test_witness_EveryStepCompletes : State.reset.inbox = [] := by decide

theorem test_witness_FirstAccess :
    ({ builtQpigs with
      inbox := [.resetAssert, .access (cmdWrite 0x21000051), .resetRelease, .access ⟨.read, 0x00C, .four⟩] } : State).inbox =
      .resetAssert :: [cmdWrite 0x21000051].map Input.access ++ .resetRelease :: [.access ⟨.read, 0x00C, .four⟩] := by decide

theorem test_witness_Nop : (0x01 : Byte) ≠ 0 := by decide

theorem test_witness_Errclr :
    (opcField 0x01000001 = 0x01 ∧ immField 0x01000001 ≠ 0) ∧ (opcField 0x01000100 = 0x01 ∧ rsvField 0x01000100 ≠ 0) ∧
      (State.reset.errorLegal ∧ State.reset.err = false) ∧ memRead 0x00C (withPayload [] true false 3) = 0x00000031 := by
  decide

theorem test_witness_Sreset :
    (opcField 0x02000100 = 0x02 ∧ rsvField 0x02000100 ≠ 0) ∧ (opcField 0x02000001 = 0x02 ∧ immField 0x02000001 ≠ 0) ∧
      aligned 0x02C ∧ ∃ t, exec .sreset builtQpigs = .next t := by
  refine ⟨by decide, by decide, by decide, ⟨_, rfl⟩⟩

theorem test_witness_ClearCommands :
    (∃ t, exec .crcClr builtQpigs = .next t) ∧ (∃ t, exec .frmClr builtQpigs = .next t) ∧
      ∃ t, exec .rxClr builtQpigs = .next t := ⟨⟨_, rfl⟩, ⟨_, rfl⟩, ⟨_, rfl⟩⟩

theorem test_witness_CrcByte :
    (0x8000 : Crc) ^^^ ((0x00 : Byte).setWidth 16 <<< 8) = 0x0000 ^^^ ((0x80 : Byte).setWidth 16 <<< 8) := by decide

theorem test_witness_ChecksumProperties :
    ∀ i ∈ [Instr.crcByte 0x51, .frmBuild, .crcByte 0x50], i ≠ .crcClr ∧ i ≠ .sreset := by decide

theorem test_witness_FramerKeepsOff : Instr.frmPush 0x51 = .frmClr ∨ Instr.frmPush 0x51 = .frmPush 0x51 ∨
    Instr.frmPush 0x51 = .frmBuild := by decide

theorem test_witness_FrameLayout : allAscii (List.replicate 32 0x7F) := by decide +kernel

/-- Each clause at its boundary: the bytes 0x7F and 0x80, the lengths 31 and 32. -/
theorem test_witness_FrmPush :
    (0x80 : Byte) > 0x7F ∧ (0x7F : Byte) ≤ 0x7F ∧ (withPayload (List.replicate 32 0x51) false false 0).payload.length = 32 ∧
      (withPayload (List.replicate 31 0x51) false false 0).payload.length = 31 ∧
      ∃ t, exec (.frmPush 0x7F) State.reset = .next t := by
  refine ⟨by decide, by decide, by decide, by decide, ⟨_, rfl⟩⟩

theorem test_witness_FrmBuild :
    (withPayload (List.replicate 32 0x7F) false false 0).Legal ∧
      (∃ t, exec .frmBuild (withPayload (List.replicate 32 0x7F) false false 0) = .next t) ∧ State.reset.payload = [] ∧
      builtQpigs.payload = [0x51, 0x50, 0x49, 0x47, 0x53] := by
  refine ⟨by constructor <;> decide +kernel, ⟨_, rfl⟩, by decide, by decide⟩

theorem test_witness_FrameIsOfPayload : State.reset.tx = [] := by decide

theorem test_witness_FrameSequence : allAscii (List.replicate 32 0x7F) ∧ (List.replicate 32 (0x7F : Byte)).length ≤ 32 := by
  decide +kernel

/-- Each clause at its boundary: 127 and 128 bytes held. -/
theorem test_witness_RxPush :
    (withReply (List.replicate 128 0xFF) false).rx.length = 128 ∧ (withReply (List.replicate 127 0xFF) false).rx.length = 127 ∧
      ∃ t, exec (.rxPush 0xFF) State.reset = .next t := by
  refine ⟨by decide +kernel, by decide +kernel, ⟨_, rfl⟩⟩

/-- A record, an EMPTY, an empty buffer, the example reply, and a reply of each failing outcome. -/
theorem test_witness_ParseWrites :
    holds (exec .parse (withReply exampleReply false)) (fun t => t.valid) = true ∧
      holds (exec .parse (withReply [] false)) (fun t => !t.valid) = true ∧ (withReply [] false).rx = [] ∧
      (withReply exampleReply true).rx = exampleReply ∧ (parse exampleReply false).reason = .ok ∧
      (parse [] false).reason = .noStart ∧ (parse (bytes "(1") false).reason = .fewTokens ∧
      (parse (bytes "(x 1 1 1 1 1 1 1 1 1 1 1 1") false).reason = .notNumeric ∧
      (parse (bytes "(1 1 1 1 2147483648 1 1 1 1 1 1 1 1") false).reason = .outOfRange := by decide +kernel

theorem test_witness_RecordDelivers :
    ∃ u, strip (decodeText (withReply exampleReply false).rx (withReply exampleReply false).drop) = chrOpen :: u ∧
      holds (exec .parse (withReply exampleReply false)) (fun t => t.valid) = true :=
  ⟨(strip (decodeText exampleReply false)).tail, by decide +kernel, by decide +kernel⟩

theorem test_witness_LossyDecode : (0x7F : Byte) ∈ ([0x80, 0x7F] : List Byte) ∧ (0x7F : Byte) ≤ 0x7F := by decide

/-- A text with something to strip at both ends. -/
theorem test_witness_Strip :
    strip [.ascii 0x0A, .ascii 0x20, .ascii 0x0D, .ascii 0x00] = [.ascii 0x20] ∧
      (strip [.ascii 0x0A, .ascii 0x20, .ascii 0x0D, .ascii 0x00]).head? = some (.ascii 0x20) := by decide

/-- An empty text and one that starts otherwise; a space, a tab and REPL before the `(`. -/
theorem test_witness_NoStart :
    (∀ u, strip (decodeText (withReply [] false).rx (withReply [] false).drop) ≠ .ascii 0x28 :: u) ∧
      (∀ u, strip (decodeText (withReply (bytes "garbage") false).rx (withReply (bytes "garbage") false).drop) ≠
        .ascii 0x28 :: u) ∧
      decodeText (withReply (bytes " (") false).rx (withReply (bytes " (") false).drop =
        [] ++ Chr.ascii 0x20 :: [.ascii 0x28] ∧
      decodeText (withReply [0x00, 0x09, 0x28] false).rx (withReply [0x00, 0x09, 0x28] false).drop =
        [Chr.ascii 0x00] ++ Chr.ascii 0x09 :: [.ascii 0x28] ∧ isStripped (.ascii 0x00) = true ∧
      decodeText (withReply [0x80, 0x28] false).rx (withReply [0x80, 0x28] false).drop =
        [] ++ Chr.repl :: [.ascii 0x28] := by
  refine ⟨fun u => by simp [withReply, strip, stripStart, stripEnd], fun u => ?_, by decide, by decide, by decide, by decide⟩
  have h : (strip (decodeText (withReply (bytes "garbage") false).rx (withReply (bytes "garbage") false).drop)).head? =
      some (.ascii 0x67) := by decide
  intro hu
  rw [hu] at h
  simp at h

/-- 12 and 13 tokens; two token lists that differ only where no field looks. -/
theorem test_witness_OnlySurfaced :
    strip (decodeText (bytes "(1 1 1 1 1 1 1 1 1 1 1 1") false) = chrOpen :: decodeText (bytes "1 1 1 1 1 1 1 1 1 1 1 1") false ∧
      (split (decodeText (bytes "1 1 1 1 1 1 1 1 1 1 1 1") false)).length < 13 ∧
      strip (decodeText (bytes "(1 1 1 1 1 1 1 1 1 1 1 1 1") false) =
        chrOpen :: decodeText (bytes "1 1 1 1 1 1 1 1 1 1 1 1 1") false ∧
      13 ≤ (split (decodeText (bytes "1 1 1 1 1 1 1 1 1 1 1 1 1") false)).length ∧
      ∀ n ∈ ([0, 1, 2, 3, 4, 5, 8, 9, 10, 12] : List Nat),
        (split (decodeText (bytes "1 1 1 1 1 1 x  1 1 1 y 1 z") false))[n]? =
          (split (decodeText (bytes "1 1 1 1 1 1 1 1 1 1 1 1 1") false))[n]? := by decide +kernel

theorem test_witness_IntegerToken :
    isSign [] ∧ isSign [chrPlus] ∧ isSign [chrMinus] ∧ ([2, 1, 4, 7, 4, 8, 3, 6, 4, 8] : List (Fin 10)) ≠ [] ∧
      ∀ (sign : List Chr) (ds : List (Fin 10)), isSign sign → ds ≠ [] → ([] : List Chr) ≠ sign ++ ds.map digitChr := by
  refine ⟨by decide, by decide, by decide, by decide, fun sign ds _ hd h => ?_⟩
  exact hd (by simpa using (List.nil_eq_append_iff.mp h).2)

/-- A whole part alone, a fraction alone, nine and ten fraction digits; a token that is no float. -/
theorem test_witness_FloatToken :
    isFloatBody [5] none ∧ isFloatBody [] (some [5]) ∧ ((some (List.replicate 9 (1 : Fin 10))).getD []).length = 9 ∧
      ((some (List.replicate 10 (1 : Fin 10))).getD []).length > 9 ∧
      ∀ (sign : List Chr) (whole : List (Fin 10)) (frac : Option (List (Fin 10))), isSign sign → isFloatBody whole frac →
        ([] : List Chr) ≠ sign ++ floatBody whole frac := by
  refine ⟨by decide, by decide, by decide, by decide, fun sign whole frac _ hb h => ?_⟩
  have hf : floatBody whole frac = [] := (List.nil_eq_append_iff.mp h).2
  cases frac with
  | none =>
    have hw : whole = [] := by simpa [floatBody] using hf
    exact hb.elim (fun g => g hw) (fun g => g rfl)
  | some f => simp [floatBody] at hf

/-- NO_START, FEW_TOKENS, a field that fails after others converted, and a record. -/
theorem test_witness_ParseReports :
    strip (decodeText [] false) = [] ∧ (split (decodeText (bytes "1 1") false)).length < 13 ∧
      convField (split (decodeText (bytes "1 1 x 1 1 1 1 1 1 1 1 1 1") false)) 2 = .fail .notNumeric ∧
      convField (split (decodeText (bytes "1 1 x 1 1 1 1 1 1 1 1 1 1") false)) 0 = .value 1 0 ∧
      convField (split (decodeText (bytes "1 1 x 1 1 1 1 1 1 1 1 1 1") false)) 1 = .value 1 0 ∧
      ∀ k : Fin 10, convField (split (decodeText (bytes "1 1 1 1 1 1 1 1 1 1 1 1 1") false)) k =
        .value ((Vector.replicate 10 ((1 : Int), 0))[k]).1 ((Vector.replicate 10 ((1 : Int), 0))[k]).2 := by decide +kernel

/-- Two different states with one reply and one policy; an access between two PARSEs that is allowed there. -/
theorem test_witness_ParseReads :
    builtQpigs.rx = ({ State.reset with drop := true } : State).rx ∧
      builtQpigs.drop = ({ State.reset with drop := true } : State).drop ∧
      ({ State.reset with inbox := [.access (cmdWrite 0x32000000), .access (cmdWrite 0x03000000), .access (cmdWrite 0x32000000)] } :
        State).inbox = .access (cmdWrite 0x32000000) :: [cmdWrite 0x03000000].map Input.access ++
          .access (cmdWrite 0x32000000) :: [] ∧
      (cmdWrite 0x03000000).off = 0x010 ∧ decode 0x03000000 = .error .illegalOpcode := by decide

theorem test_witness_PushedReply : exampleReply.length ≤ 128 ∧ (List.replicate 128 (0xFF : Byte)).length ≤ 128 := by
  decide +kernel

theorem test_witness_ErrorEntry : State.reset.err = false ∧ (withPayload [] true false 3).err = true ∧
    [Cause.rxFull, .illegalOpcode] ≠ [] := by decide

theorem test_witness_ErrorsArePrecise : ∃ t, execute 0x210000B7 builtQpigs = .next t := ⟨_, rfl⟩

theorem test_witness_OnlyErrclrAndResets :
    builtQpigs.resetLine = false ∧ builtQpigs.err = true ∧ builtQpigs.ecause ≠ 0 ∧
      holds (takeInput (.access (cmdWrite 0x01000000)) builtQpigs) (fun t => !t.err && t.ecause == 0) = true ∧
      holds (takeInput .resetAssert builtQpigs) (fun t => !t.err && t.ecause == 0) = true := by decide +kernel

theorem test_witness_RepeatedCommands :
    Instr.parse ∈ [Instr.nop, .errclr, .sreset, .crcClr, .frmClr, .frmBuild, .rxClr, .parse] ∧ (0x7F : Byte) ≤ 0x7F ∧
      (withPayload (List.replicate 30 0x51) false false 0).payload.length < 31 ∧
      (withReply (List.replicate 126 0) false).rx.length < 127 ∧ decode 0x00000001 = .error .reservedNonzero ∧
      State.reset.err = false := by decide +kernel

/-- A legal state, other than the reset state, that steps. -/
theorem test_witness_LegalStateIsKept :
    ({ withPayload (List.replicate 32 0x7F) true true 4 with inbox := [.access (cmdWrite 0x22000000)] } : State).Legal ∧
      ∃ t, step { withPayload (List.replicate 32 0x7F) true true 4 with inbox := [.access (cmdWrite 0x22000000)] } = .next t := by
  refine ⟨by constructor <;> decide +kernel, ⟨_, rfl⟩⟩

end Sys2Proof.Tests
end

section
/-!
The register map by ranges of offsets (10_state.md R22, R37 to R39): which register a window offset and a reserved offset
name, and the only offsets of ID and CAPS.
-/

namespace Sys2Proof.Machine

theorem regAt_ofNat {o : Nat} (h : o < 0x1000) : regAt (BitVec.ofNat 12 o) = regAtNat o := by
  rw [regAt, BitVec.toNat_ofNat, Nat.mod_eq_of_lt h]

/-- The four ranges of R39, with the misaligned offsets inside them. -/
theorem regAtNat_reserved (o : Nat)
    (h : (0x028 ≤ o ∧ o < 0x040) ∨ (0x068 ≤ o ∧ o < 0x080) ∨ (0x0A8 ≤ o ∧ o < 0x100) ∨ 0x300 ≤ o) :
    regAtNat o = .reserved := by
  unfold regAtNat
  iterate 10 rw [if_neg (by omega)]
  iterate 4 rw [dif_neg (by omega)]

theorem regAt_txwin (j : Fin 64) : regAt (BitVec.ofNat 12 (0x100 + 4 * j.val)) = .txwin j := by
  rw [regAt_ofNat (by omega), regAtNat]
  iterate 10 rw [if_neg (by omega)]
  iterate 2 rw [dif_neg (by omega)]
  rw [dif_pos (by omega)]
  congr
  omega

theorem regAt_rxwin (j : Fin 64) : regAt (BitVec.ofNat 12 (0x200 + 4 * j.val)) = .rxwin j := by
  rw [regAt_ofNat (by omega), regAtNat]
  iterate 10 rw [if_neg (by omega)]
  iterate 3 rw [dif_neg (by omega)]
  rw [dif_pos (by omega)]
  congr
  omega

theorem regAtNat_ne_id (o : Nat) (h : o ≠ 0x000) : regAtNat o ≠ .id := by
  fun_cases regAtNat o
  case case1 hid => exact absurd hid h
  all_goals nofun

theorem regAtNat_ne_caps (o : Nat) (h : o ≠ 0x004) : regAtNat o ≠ .caps := by
  fun_cases regAtNat o
  case case2 _ hcaps => exact absurd hcaps h
  all_goals nofun

theorem regAt_id : regAt 0x000 = .id := rfl

theorem regAt_caps : regAt 0x004 = .caps := rfl

theorem regAt_ne_id (off : Offset) (h : off ≠ 0x000) : regAt off ≠ .id :=
  regAtNat_ne_id _ (mt (fun h0 => BitVec.eq_of_toNat_eq h0) h)

theorem regAt_ne_caps (off : Offset) (h : off ≠ 0x004) : regAt off ≠ .caps :=
  regAtNat_ne_caps _ (mt (fun h4 => BitVec.eq_of_toNat_eq h4) h)

end Sys2Proof.Machine
end

section
/-!
Reads and writes through the map: only CTRL and CMD act on a write (20_memory.md R64), a window word's bytes (R65), ID and
CAPS (10_state.md R23, R24), the reserved offsets (R39).
-/

namespace Sys2Proof.Machine

theorem memWrite_ignored {off : Offset} {r : Reg} (hreg : regAt off = r) (hctrl : r ≠ .ctrl) (hcmd : r ≠ .cmd)
    (v : Word) (s : State) : memWrite off v s = .next s := by
  rw [memWrite, hreg]
  rcases writeReg_cases r v s with ⟨h, _⟩ | ⟨h, _⟩ | ⟨_, _, h⟩
  · exact absurd h hctrl
  · exact absurd h hcmd
  · exact h

theorem memRead_id (s : State) : memRead 0x000 s = 0x45504531 := by
  rw [memRead, regAt_id]
  rfl

theorem memRead_caps (s : State) : memRead 0x004 s = 0x0A802320 := by
  rw [memRead, regAt_caps]
  rfl

/-- Lane `l` of a window word at window offset `o` is window byte `o + l`: the bytes of the lower lanes end below it, those
of the upper lanes are shifted past it. -/
theorem winWord_lane (buf : List Byte) (o : Nat) (l : Fin 4) :
    (winWord buf o).extractLsb' (8 * l.val) 8 = windowByte buf (o + l.val) := by
  refine BitVec.eq_of_getLsbD_eq fun i hi => ?_
  simp only [winWord, BitVec.getLsbD_extractLsb', BitVec.getLsbD_or, BitVec.getLsbD_shiftLeft, BitVec.getLsbD_setWidth]
  fin_cases l <;> grind

theorem memRead_txwin (j : Fin 64) (s : State) :
    memRead (BitVec.ofNat 12 (0x100 + 4 * j.val)) s = winWord s.tx (4 * j.val) := by
  rw [memRead, regAt_txwin]
  rfl

theorem memRead_rxwin (j : Fin 64) (s : State) :
    memRead (BitVec.ofNat 12 (0x200 + 4 * j.val)) s = winWord s.rx (4 * j.val) := by
  rw [memRead, regAt_rxwin]
  rfl

theorem memWrite_txwin (j : Fin 64) (v : Word) (s : State) :
    memWrite (BitVec.ofNat 12 (0x100 + 4 * j.val)) v s = .next s :=
  memWrite_ignored (regAt_txwin j) nofun nofun v s

theorem memWrite_rxwin (j : Fin 64) (v : Word) (s : State) :
    memWrite (BitVec.ofNat 12 (0x200 + 4 * j.val)) v s = .next s :=
  memWrite_ignored (regAt_rxwin j) nofun nofun v s

theorem windowByte_eq (buf : List Byte) (i : Nat) : windowByte buf i = if h : i < buf.length then buf[i] else 0 := by
  split
  case isTrue h => exact List.getElem_eq_getD 0 |>.symm
  case isFalse h => exact List.getD_eq_default _ _ (Nat.le_of_not_lt h)

/-- Byte `i` of a window, taken from its lane of the window word that holds it. -/
theorem winWord_byte (buf : List Byte) (i : Nat) :
    (winWord buf (4 * (i / 4))).extractLsb' (8 * (i % 4)) 8 = if h : i < buf.length then buf[i] else 0 := by
  have hlane := winWord_lane buf (4 * (i / 4)) ⟨i % 4, Nat.mod_lt i (by decide)⟩
  rw [Nat.div_add_mod i 4] at hlane
  rw [hlane, windowByte_eq]

/-- Settles O9: both offsets name constant registers, and neither is CTRL or CMD. -/
theorem idAndCapsAreConstant : Obligations.IdAndCapsAreConstant := by
  intro s v
  refine ⟨memRead_id s, memWrite_ignored regAt_id nofun nofun v s, memRead_caps s,
    memWrite_ignored regAt_caps nofun nofun v s, ?_⟩
  rw [memRead_caps s]
  decide

/-- Settles O15: each offset of the four ranges names no register, so it reads 0 and a write there acts on nothing. -/
theorem reservedOffsetsReadZero : Obligations.ReservedOffsetsReadZero := by
  intro s o v haligned hranges
  have hreg : regAt (BitVec.ofNat 12 o) = .reserved := by
    rw [regAt_ofNat (by omega)]
    exact regAtNat_reserved o (by omega)
  constructor
  · rw [memRead, hreg]
    rfl
  · exact memWrite_ignored hreg nofun nofun v s

/-- Settles O14: the window offsets name the window words, and a window word holds its four bytes in lane order. -/
theorem windowsAreLittleEndianBuffers : Obligations.WindowsAreLittleEndianBuffers := by
  refine ⟨fun s i v => ?_, fun buf j lane => winWord_lane buf (4 * j.val) lane, fun s htx => ?_⟩
  · let j : Fin 64 := ⟨i.val / 4, by omega⟩
    refine ⟨?_, ?_, memWrite_txwin j v s, memWrite_rxwin j v s⟩
    · rw [memRead_txwin j s]
      exact winWord_byte s.tx i.val
    · rw [memRead_rxwin j s]
      exact winWord_byte s.rx i.val
  · have h0 : memRead 0x100 s = winWord s.tx 0 := memRead_txwin 0 s
    have h1 : memRead 0x104 s = winWord s.tx 4 := memRead_txwin 1 s
    rw [h0, h1, htx]
    decide

end Sys2Proof.Machine
end

section
/-!
Reset (10_state.md R44, 70_reset_and_hazards.md R231): what sets the reset values, what keeps them, and what every register
reads at them.
-/

namespace Sys2Proof.Machine

theorem resetElements_atResetValues (s : State) : s.resetElements.atResetValues := by
  simp [State.atResetValues]

theorem reset_atResetValues : State.reset.atResetValues := resetElements_atResetValues State.reset

theorem setResetLine_atResetValues (s : State) (b : Bool) (h : s.atResetValues) : (s.setResetLine b).atResetValues := h

theorem answer_atResetValues (s : State) (r : Response) (h : s.atResetValues) : (s.answer r).atResetValues := h

theorem setInbox_atResetValues (s : State) (l : List Input) (h : s.atResetValues) : (s.setInbox l).atResetValues := h

/-- At the reset values every register but the two constants reads 0 (10_state.md R22). -/
theorem readReg_atResetValues (r : Reg) (t : State) (h : t.atResetValues) (hid : r ≠ .id) (hcaps : r ≠ .caps) :
    readReg r t = 0 := by
  obtain ⟨hcrc, hpayload, htx, hrx, hdrop, ⟨herr, heovf, hecause⟩, ⟨hvalid, hreason, hfidx, hntok⟩, hfields⟩ := h
  cases r with
  | id => exact absurd rfl hid
  | caps => exact absurd rfl hcaps
  | ctrl => simp [readReg, bit, hdrop]
  | status =>
    simp [readReg, State.statusWord, State.txv, State.rxfull, State.pfull, bit, htx, hrx, hpayload, hecause, heovf, herr,
      Config.pcap, Config.rxcap]
  | cmd => rfl
  | crc => simp [readReg, hcrc]
  | plen => simp [readReg, hpayload]
  | txlen => simp [readReg, htx]
  | rxlen => simp [readReg, hrx]
  | pres => simp [readReg, State.presWord, bit, hntok, hfidx, hreason, hvalid]
  | fval k => exact (hfields k).1
  | fscl k =>
    have hk : t.fscl[k] = 0 := (hfields k).2
    simp only [readReg, hk]
    rfl
  | txwin j => simp [readReg, htx, winWord, windowByte]
  | rxwin j => simp [readReg, hrx, winWord, windowByte]
  | reserved => rfl

/-- The reset value of every offset (10_state.md R22, R44). -/
theorem memRead_atResetValues (off : Offset) (t : State) (h : t.atResetValues) :
    memRead off t = if off = 0x000 then 0x45504531 else if off = 0x004 then 0x0A802320 else 0x00000000 := by
  split_ifs with hid hcaps
  · rw [hid]
    exact memRead_id t
  · rw [hcaps]
    exact memRead_caps t
  · exact readReg_atResetValues _ t h (regAt_ne_id off hid) (regAt_ne_caps off hcaps)

theorem exec_sreset (s : State) : exec .sreset s = .next s.resetElements := rfl

/-- The step that takes a write of the SRESET word: the reset, the answer and the taking of the input, all in one. -/
theorem step_sreset (s : State) (rest : List Input) (hline : s.resetLine = false)
    (hinbox : s.inbox = .access (cmdWrite 0x02000000) :: rest) :
    step s = .next ((s.resetElements.answer ⟨.ok, none⟩).setInbox rest) := by
  have hdecode : decode 0x02000000 = .instr .sreset := by decide
  rw [step_cons s _ rest hinbox, takeInput_access _ s hline, runAccess_cmdWrite, execute_instr _ _ s hdecode, exec_sreset,
    mapNext_next, mapNext_next]

/-- Settles O17: each reset source ends in `resetElements`, which has the reset values, and what stands around it in the
step keeps them. -/
theorem everyResetSourceSetsResetValues : Obligations.EveryResetSourceSetsResetValues := by
  refine ⟨reset_atResetValues, fun t ht off _ => memRead_atResetValues off t ht, fun s => ?_⟩
  have hreset : s.resetElements.atResetValues := resetElements_atResetValues s
  refine ⟨⟨_, exec_sreset s, hreset⟩, ⟨_, rfl, setResetLine_atResetValues _ true hreset⟩, ⟨_, rfl, hreset⟩, ?_⟩
  intro rest hline hinbox
  exact ⟨_, step_sreset s rest hline hinbox,
    setInbox_atResetValues _ rest (answer_atResetValues _ _ hreset), State.setInbox_inbox _ rest⟩

end Sys2Proof.Machine
end

section
/-!
The bus port of a state: what stands outside the block's elements (log 1 to log 3). Every command has a next state and
leaves the port as it was.
-/

namespace Sys2Proof.Machine

/-- Two states have the same pending inputs, answers given and level of the reset input. -/
def State.samePort (s t : State) : Prop :=
  t.outbox = s.outbox ∧ t.inbox = s.inbox ∧ t.resetLine = s.resetLine

theorem samePort_refl (s : State) : s.samePort s := ⟨rfl, rfl, rfl⟩

theorem recordError_samePort (s : State) (c : Cause) : s.samePort (s.recordError c) :=
  ⟨State.recordError_outbox s c, State.recordError_inbox s c, State.recordError_resetLine s c⟩

theorem sameElements_refl (s : State) : s.sameElements s :=
  ⟨rfl, rfl, rfl, rfl, rfl, rfl, rfl, rfl, rfl, rfl, rfl, rfl, rfl, rfl⟩

theorem answer_sameElements (s : State) (r : Response) : (s.answer r).sameElements s := sameElements_refl s

theorem setInbox_sameElements (s : State) (l : List Input) : (s.setInbox l).sameElements s := sameElements_refl s

/-- The two refusals of FRM.PUSH in their order, then the append (42_framer.md R142, 60_exceptions.md R201). -/
theorem execFrmPush_cases (b : Byte) (s : State) :
    (isAscii b = false ∧ execFrmPush b s = .next (s.recordError .nonAscii)) ∨
      (isAscii b = true ∧ s.payload.length = Config.pcap ∧ execFrmPush b s = .next (s.recordError .payloadFull)) ∨
      (isAscii b = true ∧ s.payload.length ≠ Config.pcap ∧
        execFrmPush b s = .next (s.setPayload (s.payload ++ [b]))) := by
  cases hascii : isAscii b with
  | false => exact .inl ⟨rfl, if_pos hascii⟩
  | true =>
    have hnot : ¬ isAscii b = false := by simp [hascii]
    by_cases hfull : s.payload.length = Config.pcap
    · exact .inr (.inl ⟨rfl, hfull, (if_neg hnot).trans (if_pos hfull)⟩)
    · exact .inr (.inr ⟨rfl, hfull, (if_neg hnot).trans (if_neg hfull)⟩)

/-- The refusal of RX.PUSH and the append (43_parser.md R161). -/
theorem execRxPush_cases (b : Byte) (s : State) :
    (s.rx.length = Config.rxcap ∧ execRxPush b s = .next (s.recordError .rxFull)) ∨
      (s.rx.length ≠ Config.rxcap ∧ execRxPush b s = .next (s.setRx (s.rx ++ [b]))) := by
  by_cases hfull : s.rx.length = Config.rxcap
  · exact .inl ⟨hfull, if_pos hfull⟩
  · exact .inr ⟨hfull, if_neg hfull⟩

/-- Every command has a next state, and it neither answers nor takes an input nor moves the reset input; only the two
pushes can also end with the error record. -/
theorem exec_next_samePort (i : Instr) (s : State) : ∃ t, exec i s = .next t ∧ s.samePort t := by
  cases i with
  | nop => exact ⟨_, rfl, samePort_refl s⟩
  | errclr => exact ⟨_, rfl, samePort_refl s⟩
  | sreset => exact ⟨_, rfl, samePort_refl s⟩
  | crcClr => exact ⟨_, rfl, samePort_refl s⟩
  | crcByte b => exact ⟨_, rfl, samePort_refl s⟩
  | frmClr => exact ⟨_, rfl, samePort_refl s⟩
  | frmPush b =>
    rcases execFrmPush_cases b s with ⟨_, h⟩ | ⟨_, _, h⟩ | ⟨_, _, h⟩
    · exact ⟨_, h, recordError_samePort s _⟩
    · exact ⟨_, h, recordError_samePort s _⟩
    · exact ⟨_, h, samePort_refl s⟩
  | frmBuild => exact ⟨_, rfl, samePort_refl s⟩
  | rxClr => exact ⟨_, rfl, samePort_refl s⟩
  | rxPush b =>
    rcases execRxPush_cases b s with ⟨_, h⟩ | ⟨_, h⟩
    · exact ⟨_, h, recordError_samePort s _⟩
    · exact ⟨_, h, samePort_refl s⟩
  | parse => exact ⟨_, rfl, samePort_refl s⟩

theorem execute_next_samePort (w : Word) (s : State) : ∃ t, execute w s = .next t ∧ s.samePort t := by
  cases hdecode : decode w with
  | instr i =>
    rw [execute_instr w i s hdecode]
    exact exec_next_samePort i s
  | error c => exact ⟨_, execute_error w c s hdecode, recordError_samePort s c⟩

end Sys2Proof.Machine
end

section
/-!
What the bus answers: aligned 32-bit writes (20_memory.md R64), and narrow or misaligned accesses (R63).
-/

namespace Sys2Proof.Machine

theorem regOffset_regAtNat (o : Nat) (haligned : o % 4 = 0) (hreg : regAtNat o ≠ .reserved) :
    regOffset (regAtNat o) = some (BitVec.ofNat 12 o) := by
  revert hreg
  fun_cases regAtNat o
  case case15 => exact fun hreg => absurd rfl hreg
  all_goals intro _
  case case11 | case12 | case13 | case14 =>
    refine congrArg (fun n => some (BitVec.ofNat 12 n)) ?_
    dsimp only
    omega
  all_goals
    subst o
    rfl

theorem aligned_iff (off : Offset) : aligned off ↔ off.toNat % 4 = 0 := by
  rw [aligned, ← BitVec.toNat_inj, BitVec.extractLsb'_toNat]
  rfl

/-- An aligned offset is the offset of the register it names (10_state.md R22). -/
theorem regOffset_regAt (off : Offset) (haligned : aligned off) (hreg : regAt off ≠ .reserved) :
    regOffset (regAt off) = some off := by
  have h := regOffset_regAtNat off.toNat ((aligned_iff off).mp haligned) hreg
  rwa [BitVec.ofNat_toNat, BitVec.setWidth_eq] at h

/-- No aligned offset but a register's own names it. -/
theorem eq_of_regAt_eq {off off' : Offset} {r : Reg} (haligned : aligned off) (hreg : regAt off = r)
    (hoff : regOffset r = some off') : off = off' := by
  subst r
  have hne : regAt off ≠ .reserved := fun hres => by
    rw [hres] at hoff
    exact absurd hoff nofun
  exact Option.some.inj ((regOffset_regAt off haligned hne).symm.trans hoff)

/-- Everything an aligned write can do, by its offset (20_memory.md R64). -/
theorem memWrite_cases (off : Offset) (haligned : aligned off) (v : Word) (s : State) :
    (off = 0x008 ∧ memWrite off v s = .next (s.setDrop (v.getLsbD 0))) ∨
      (off = 0x010 ∧ memWrite off v s = execute v s) ∨
      (off ≠ 0x008 ∧ off ≠ 0x010 ∧ memWrite off v s = .next s) := by
  rcases writeReg_cases (regAt off) v s with ⟨hreg, h⟩ | ⟨hreg, h⟩ | ⟨hctrl, hcmd, h⟩
  · exact .inl ⟨eq_of_regAt_eq haligned hreg rfl, h⟩
  · exact .inr (.inl ⟨eq_of_regAt_eq haligned hreg rfl, h⟩)
  · refine .inr (.inr ⟨?_, ?_, h⟩)
    · rintro rfl
      exact hctrl regAt_ctrl
    · rintro rfl
      exact hcmd regAt_cmd

theorem runAccess_write_next (off : Offset) (v : Word) (s u : State) (haligned : aligned off)
    (h : memWrite off v s = .next u) : runAccess ⟨.write v, off, .four⟩ s = .next (u.answer ⟨.ok, none⟩) := by
  rw [runAccess_write off v s haligned, h, mapNext_next]

theorem answer_of_samePort {s u : State} (r : Response) (h : s.samePort u) :
    (u.answer r).outbox = s.outbox ++ [r] ∧ (u.answer r).inbox = s.inbox ∧ (u.answer r).resetLine = s.resetLine := by
  obtain ⟨hout, hin, hline⟩ := h
  exact ⟨congrArg (· ++ [r]) hout, hin, hline⟩

/-- The accesses that break R63 are the narrow and the misaligned ones. -/
theorem wellFormed_eq_false_iff (a : Access) : a.wellFormed = false ↔ a.size ≠ .four ∨ ¬ aligned a.off := by
  rw [Access.wellFormed, Bool.and_eq_false_iff, beq_eq_false_iff_ne, beq_eq_false_iff_ne]

theorem busErrorAnswer_status (op : BusOp) : (busErrorAnswer op).status = .busError := by
  cases op <;> rfl

theorem busErrorAnswer_read : (busErrorAnswer .read).rdata = some 0x00000000 := rfl

/-- The step that takes an access the block refuses: the answer and the taking of the input, and nothing else. -/
theorem step_refused (s : State) (a : Access) (rest : List Input) (hline : s.resetLine = false)
    (hinbox : s.inbox = .access a :: rest) (ha : a.wellFormed = false) :
    step s = .next ((s.answer (busErrorAnswer a.op)).setInbox rest) := by
  rw [step_cons s _ rest hinbox, takeInput_access a s hline, runAccess_refused a s ha, mapNext_next]

/-- Settles O18, by the three places an aligned write can act at: CTRL, CMD, and anywhere else. -/
theorem writesActAtCtrlAndCmdOnly : Obligations.WritesActAtCtrlAndCmdOnly := by
  intro s v off haligned
  rcases memWrite_cases off haligned v s with ⟨hoff, h⟩ | ⟨hoff, h⟩ | ⟨hctrl, hcmd, h⟩
  · obtain ⟨hout, hin, hline⟩ := answer_of_samePort ⟨.ok, none⟩ (samePort_refl s)
    refine ⟨_, _, runAccess_write_next off v s _ haligned h, hout, rfl, hin, hline, fun _ => ?_, fun hcmd => ?_,
      fun hctrl => absurd hoff hctrl⟩
    · exact answer_sameElements (s.setDrop (v.getLsbD 0)) _
    · exact absurd (hoff.symm.trans hcmd) (by decide)
  · obtain ⟨u, hu, hport⟩ := execute_next_samePort v s
    obtain ⟨hout, hin, hline⟩ := answer_of_samePort ⟨.ok, none⟩ hport
    refine ⟨_, _, runAccess_write_next off v s u haligned (h.trans hu), hout, rfl, hin, hline, fun hctrl => ?_, fun _ => ?_,
      fun _ hcmd => absurd hoff hcmd⟩
    · exact absurd (hoff.symm.trans hctrl) (by decide)
    · exact ⟨u, hu, answer_sameElements u _⟩
  · obtain ⟨hout, hin, hline⟩ := answer_of_samePort ⟨.ok, none⟩ (samePort_refl s)
    exact ⟨_, _, runAccess_write_next off v s s haligned h, hout, rfl, hin, hline, fun hoff => absurd hoff hctrl,
      fun hoff => absurd hoff hcmd, fun _ _ => answer_sameElements s _⟩

/-- Settles O19: such an access is not well formed, so the step only gives the BusError answer and takes the input. -/
theorem misalignedOrNarrowAccessIsBusError : Obligations.MisalignedOrNarrowAccessIsBusError := by
  intro s a rest hline hinbox hbad
  refine ⟨_, _, step_refused s a rest hline hinbox ((wellFormed_eq_false_iff a).mpr hbad), rfl,
    busErrorAnswer_status a.op, fun hread => ?_, ?_, hline, State.setInbox_inbox _ rest⟩
  · rw [hread]
    exact busErrorAnswer_read
  · exact setInbox_sameElements _ rest

end Sys2Proof.Machine
end

section
/-!
The opcode map (30_encoding.md R82, R87): the defined operation codes, those with an operand, and the rows of the table as
conditions on the fields of a word.
-/

namespace Sys2Proof

/-- The eleven defined operation codes, as `Execute(w)` lists them (30_encoding.md R86). -/
def definedOpcodes : List Byte := [0x00, 0x01, 0x02, 0x10, 0x11, 0x20, 0x21, 0x22, 0x30, 0x31, 0x32]

/-- The operation codes of the three commands that take IMM8 (30_encoding.md R86). -/
def operandOpcodes : List Byte := [0x11, 0x21, 0x31]

/-- The operation codes of the eight commands without an operand (30_encoding.md R84). -/
def operandlessOpcodes : List Byte := [0x00, 0x01, 0x02, 0x10, 0x20, 0x22, 0x30, 0x32]

/-- An operation code in one of the four undefined ranges (30_encoding.md R87). -/
def InUndefinedRange (o : Byte) : Prop :=
  (0x03 ≤ o ∧ o ≤ 0x0F) ∨ (0x12 ≤ o ∧ o ≤ 0x1F) ∨ (0x23 ≤ o ∧ o ≤ 0x2F) ∨ 0x33 ≤ o

theorem opcode_mem_definedOpcodes (i : Instr) : i.opcode ∈ definedOpcodes := by
  fun_cases Instr.opcode i <;> decide

theorem exists_opcode_eq_of_mem {o : Byte} (h : o ∈ definedOpcodes) : ∃ i : Instr, i.opcode = o := by
  have hmap : definedOpcodes = [Instr.nop, .errclr, .sreset, .crcClr, .crcByte 0, .frmClr, .frmPush 0, .frmBuild, .rxClr,
    .rxPush 0, .parse].map Instr.opcode := rfl
  rw [hmap] at h
  obtain ⟨i, _, hi⟩ := List.mem_map.mp h
  exact ⟨i, hi⟩

theorem hasOperand_iff (i : Instr) : i.hasOperand = true ↔ i.opcode ∈ operandOpcodes := by
  fun_cases Instr.hasOperand i <;> simp [Instr.opcode, operandOpcodes]

theorem hasOperand_eq_false_iff (i : Instr) : i.hasOperand = false ↔ i.opcode ∉ operandOpcodes := by
  rw [← hasOperand_iff, Bool.not_eq_true]

theorem mem_operandlessOpcodes {o : Byte} (h : o ∈ operandlessOpcodes) : o ∈ definedOpcodes ∧ o ∉ operandOpcodes := by
  have hall : ∀ c ∈ operandlessOpcodes, c ∈ definedOpcodes ∧ c ∉ operandOpcodes := by decide
  exact hall o h

theorem not_mem_definedOpcodes_of_inUndefinedRange {o : Byte} (h : InUndefinedRange o) : o ∉ definedOpcodes := by
  have hnone : ∀ c ∈ definedOpcodes, ¬ InUndefinedRange c := by
    unfold InUndefinedRange
    decide
  exact fun hmem => hnone o hmem h

/-- The opcode map at a command's code gives that command with the operand byte put in: a command of the same row. -/
theorem commandOf_opcode (i : Instr) (m : Byte) :
    ∃ j, commandOf i.opcode m = some j ∧ j.row = i.row ∧ j.hasOperand = i.hasOperand := by
  cases i <;> exact ⟨_, rfl, rfl, rfl⟩

theorem commandOf_of_mem {o : Byte} (m : Byte) (h : o ∈ definedOpcodes) : ∃ i, commandOf o m = some i := by
  obtain ⟨i, rfl⟩ := exists_opcode_eq_of_mem h
  obtain ⟨j, hj, _⟩ := commandOf_opcode i m
  exact ⟨j, hj⟩

theorem opcode_of_commandOf {o m : Byte} {i : Instr} (h : commandOf o m = some i) : i.opcode = o :=
  (commandOf_fields o m i h).1

theorem commandOf_of_not_mem {o : Byte} (m : Byte) (h : o ∉ definedOpcodes) : commandOf o m = none := by
  cases hcommand : commandOf o m with
  | none => rfl
  | some i => exact absurd (opcode_of_commandOf hcommand ▸ opcode_mem_definedOpcodes i) h

/-- A word decodes to a command exactly when it passes the checks of `Execute(w)` (30_encoding.md R86). -/
theorem decode_eq_instr_iff (w : Word) (i : Instr) :
    decode w = .instr i ↔ commandOf (opcField w) (immField w) = some i ∧ rsvField w = 0 ∧
      (i.hasOperand = true ∨ immField w = 0) := by
  constructor
  · intro hdecode
    rcases decode_cases w with ⟨_, h⟩ | ⟨j, hj, ⟨_, h⟩ | ⟨_, _, _, h⟩ | ⟨hr, hm, h⟩⟩ <;> rw [hdecode] at h <;> cases h
    exact ⟨hj, hr, hm⟩
  · rintro ⟨hi, hr, hm⟩
    exact decode_command w i hi hr hm

/-! #### The fields of a word, through `and` -/

theorem word_eq_iff_fields (v w : Word) :
    v = w ↔ opcField v = opcField w ∧ rsvField v = rsvField w ∧ immField v = immField w := by
  refine ⟨fun h => by simp [h], fun ⟨hopc, hrsv, himm⟩ => ?_⟩
  rw [← word_of_fields v, ← word_of_fields w, hopc, hrsv, himm]

theorem opcField_and (v w : Word) : opcField (v &&& w) = opcField v &&& opcField w := BitVec.extractLsb'_and

theorem rsvField_and (v w : Word) : rsvField (v &&& w) = rsvField v &&& rsvField w := BitVec.extractLsb'_and

theorem immField_and (v w : Word) : immField (v &&& w) = immField v &&& immField w := BitVec.extractLsb'_and

/-- The match value of a row is its operation code with the other fields 0 (30_encoding.md R82). -/
theorem row_pattern_fields (i : Instr) :
    opcField i.row.pattern = i.opcode ∧ rsvField i.row.pattern = 0 ∧ immField i.row.pattern = 0 := by
  fun_cases Instr.row i <;> exact ⟨rfl, rfl, rfl⟩

/-- The mask of a row keeps OPC and RSV, and IMM8 unless it is an operand (30_encoding.md R82). -/
theorem row_mask_fields (i : Instr) :
    opcField i.row.mask = BitVec.allOnes 8 ∧ rsvField i.row.mask = BitVec.allOnes 16 ∧
      immField i.row.mask = if i.hasOperand then 0 else BitVec.allOnes 8 := by
  fun_cases Instr.row i <;> exact ⟨rfl, rfl, rfl⟩

/-- What a row selects, field by field. -/
theorem row_selects_iff (i : Instr) (w : Word) :
    w &&& i.row.mask = i.row.pattern ↔
      opcField w = i.opcode ∧ rsvField w = 0 ∧ (i.hasOperand = true ∨ immField w = 0) := by
  obtain ⟨hopc, hrsv, himm⟩ := row_pattern_fields i
  obtain ⟨hopcMask, hrsvMask, himmMask⟩ := row_mask_fields i
  rw [word_eq_iff_fields, opcField_and, rsvField_and, immField_and, hopc, hrsv, himm, hopcMask, hrsvMask, himmMask,
    BitVec.and_allOnes, BitVec.and_allOnes]
  cases i.hasOperand with
  | true => simp
  | false =>
    rw [if_neg Bool.false_ne_true, BitVec.and_allOnes]
    simp

/-- A row selects the words that decode to a command of the row. -/
theorem row_selects_iff_decode (i : Instr) (w : Word) :
    w &&& i.row.mask = i.row.pattern ↔ ∃ j, decode w = .instr j ∧ j.row = i.row := by
  constructor
  · intro hselects
    obtain ⟨hopc, hrsv, himm⟩ := (row_selects_iff i w).mp hselects
    obtain ⟨j, hj, hrow, hoperand⟩ := commandOf_opcode i (immField w)
    rw [← hopc] at hj
    rw [← hoperand] at himm
    exact ⟨j, decode_command w j hj hrsv himm, hrow⟩
  · rintro ⟨j, hdecode, hrow⟩
    obtain ⟨hj, hrsv, himm⟩ := (decode_eq_instr_iff w j).mp hdecode
    rw [← hrow]
    exact (row_selects_iff j w).mpr ⟨(opcode_of_commandOf hj).symm, hrsv, himm⟩

theorem exists_row_eq_of_mem {r : OpcodeRow} (h : r ∈ opcodeTable) : ∃ i : Instr, i.row = r := by
  obtain ⟨i, _, hi⟩ := List.mem_map.mp h
  exact ⟨i, hi⟩

/-- Settles O3: a row selects the words that decode to its commands, and a word decodes to at most one command. -/
theorem opcodeTableSelectsCommand : Obligations.OpcodeTableSelectsCommand := by
  have selects_iff : ∀ (w : Word) (r : OpcodeRow), r ∈ opcodeTable →
      (w &&& r.mask = r.pattern ↔ ∃ i, decode w = .instr i ∧ i.row = r) := by
    intro w r hr
    obtain ⟨i, rfl⟩ := exists_row_eq_of_mem hr
    exact row_selects_iff_decode i w
  refine ⟨rfl, fun w q r hq hr hselectsQ hselectsR => ?_, selects_iff⟩
  obtain ⟨i, hi, rfl⟩ := (selects_iff w q hq).mp hselectsQ
  obtain ⟨j, hj, rfl⟩ := (selects_iff w r hr).mp hselectsR
  cases hi.symm.trans hj
  rfl

theorem decode_eq_nop_iff (w : Word) : decode w = .instr .nop ↔ w = 0x00000000 := by
  constructor
  · intro hdecode
    have hselects : w &&& BitVec.allOnes 32 = 0 := (row_selects_iff_decode .nop w).mpr ⟨.nop, hdecode, rfl⟩
    rwa [BitVec.and_allOnes] at hselects
  · rintro rfl
    decide

end Sys2Proof
end

section
/-!
`Execute(w)` by the operation code of the word: the three checks in their order, then the command (30_encoding.md R84 to
R87).
-/

namespace Sys2Proof.Machine

theorem execute_undefined {w : Word} (s : State) (hopc : opcField w ∉ definedOpcodes) :
    execute w s = raise .illegalOpcode s :=
  execute_error w _ s (decode_undefined w (commandOf_of_not_mem _ hopc))

theorem execute_reserved {w : Word} (s : State) (hopc : opcField w ∈ definedOpcodes) (hrsv : rsvField w ≠ 0) :
    execute w s = raise .reservedNonzero s := by
  obtain ⟨i, hi⟩ := commandOf_of_mem (immField w) hopc
  exact execute_error w _ s (decode_reserved w i hi hrsv)

theorem execute_operandless {w : Word} (s : State) (hopc : opcField w ∈ definedOpcodes) (hrsv : rsvField w = 0)
    (hoperand : opcField w ∉ operandOpcodes) (himm : immField w ≠ 0) : execute w s = raise .reservedNonzero s := by
  obtain ⟨i, hi⟩ := commandOf_of_mem (immField w) hopc
  rw [← opcode_of_commandOf hi, ← hasOperand_eq_false_iff] at hoperand
  exact execute_error w _ s (decode_operandless w i hi hrsv hoperand himm)

theorem execute_command {w : Word} {o : Byte} {i : Instr} (s : State) (hrsv : rsvField w = 0)
    (himm : opcField w ∈ operandOpcodes ∨ immField w = 0) (hopc : opcField w = o)
    (hi : commandOf o (immField w) = some i) : execute w s = exec i s := by
  subst o
  rw [← opcode_of_commandOf hi, ← hasOperand_iff] at himm
  exact execute_instr w i s (decode_command w i hi hrsv himm)

/-- Settles O6: an operand-less code is a defined one, so its words fall under the RSV and IMM8 checks. -/
theorem reservedBitsRaise : Obligations.ReservedBitsRaise := by
  refine fun w s => ⟨fun hopc hrsv himm => ?_, fun hopc hrsv => execute_reserved s hopc hrsv⟩
  obtain ⟨hdefined, hoperand⟩ := mem_operandlessOpcodes hopc
  exact execute_operandless s hdefined hrsv hoperand himm

/-- Settles O5: no code of the four ranges is defined, and the reserved bits of a defined one are checked before it
runs. -/
theorem illegalEncodingsRaise : Obligations.IllegalEncodingsRaise := by
  refine fun w s => ⟨fun hrange => ?_, fun i hi hbits => ?_, decode_eq_nop_iff w⟩
  · exact execute_undefined s (not_mem_definedOpcodes_of_inUndefinedRange hrange)
  · by_cases hrsv : rsvField w = 0
    · obtain ⟨hoperand, himm⟩ := hbits.resolve_left (not_not_intro hrsv)
      exact execute_error w _ s (decode_operandless w i hi hrsv hoperand himm)
    · exact execute_error w _ s (decode_reserved w i hi hrsv)

/-- Settles O7: the three checks by their lemmas; a word that passes them runs what the opcode map gives for its code. -/
theorem executeChecksThenRuns : Obligations.ExecuteChecksThenRuns := by
  refine fun w s => ⟨rfl, rfl, rfl, memWrite_cmd w s, execute_undefined s, fun hopc => ⟨execute_reserved s hopc,
    execute_operandless s hopc, fun hrsv himm => ?_⟩⟩
  have runs {o : Byte} {i : Instr} (h : opcField w = o) (hi : commandOf o (immField w) = some i) :
      execute w s = exec i s := execute_command s hrsv himm h hi
  exact ⟨(runs · rfl), (runs · rfl), (runs · rfl), (runs · rfl), (runs · rfl), (runs · rfl), (runs · rfl), (runs · rfl),
    (runs · rfl), (runs · rfl), (runs · rfl)⟩

end Sys2Proof.Machine
end

section
/-!
The control commands NOP and ERRCLR (40_control.md R100, R101): the fields of a zero-extended byte as a command word, the
malformed words of the operand-less commands, and what clearing the error record does to STATUS.
-/

namespace Sys2Proof

/-- A word `0x000000NN` is operation code 0 with operand byte `NN` (30_encoding.md R80). -/
theorem setWidth_fields (b : Byte) :
    opcField (b.setWidth 32) = 0x00 ∧ rsvField (b.setWidth 32) = 0 ∧ immField (b.setWidth 32) = b := by
  refine ⟨?_, ?_, ?_⟩ <;> refine BitVec.eq_of_getLsbD_eq fun i hi => ?_
  · simp [opcField, BitVec.getLsbD_of_ge b (24 + i) (by omega)]
  · simp [rsvField]
  · simp [immField, hi, show i < 32 by omega]

namespace Machine

/-- A word of an operand-less command with RSV or IMM8 not 0 does not run it (30_encoding.md R84, R85). -/
theorem execute_malformed {w : Word} (s : State) (hopc : opcField w ∈ operandlessOpcodes)
    (hbits : rsvField w ≠ 0 ∨ immField w ≠ 0) : execute w s = raise .reservedNonzero s := by
  obtain ⟨hdefined, hoperand⟩ := mem_operandlessOpcodes hopc
  by_cases hrsv : rsvField w = 0
  · exact execute_operandless s hdefined hrsv hoperand (hbits.resolve_left (not_not_intro hrsv))
  · exact execute_reserved s hdefined hrsv

theorem exec_nop (s : State) : exec .nop s = .next s := rfl

theorem exec_errclr (s : State) : exec .errclr s = .next s.clearError := rfl

theorem execute_errclrWord (s : State) : execute 0x01000000 s = .next s.clearError := by
  have hdecode : decode 0x01000000 = .instr .errclr := by decide
  rw [execute_instr _ _ s hdecode, exec_errclr]

/-- With no error recorded the record is already clear (10_state.md R43, item 7). -/
theorem clearError_eq_self (s : State) (hlegal : s.errorLegal) (herr : s.err = false) : s.clearError = s := by
  obtain ⟨heovf, hecause⟩ := hlegal.1 herr
  cases s
  subst herr heovf hecause
  rfl

theorem regAt_status : regAt 0x00C = .status := rfl

/-- Clearing the error record clears the low byte of STATUS, where ERR, EOVF and ECAUSE stand, and keeps the flags above
it (10_state.md R26). -/
theorem statusWord_clearError (s : State) : s.clearError.statusWord = s.statusWord &&& 0xFFFFFF00 := by
  have keeps (b : Bool) : (bit b <<< 10) &&& (0xFFFFFF00 : Word) = bit b <<< 10 ∧
      (bit b <<< 9) &&& (0xFFFFFF00 : Word) = bit b <<< 9 ∧ (bit b <<< 8) &&& (0xFFFFFF00 : Word) = bit b <<< 8 := by
    cases b <;> decide
  have clears (b : Bool) : (bit b <<< 1) &&& (0xFFFFFF00 : Word) = 0 ∧ bit b &&& (0xFFFFFF00 : Word) = 0 := by
    cases b <;> decide
  have clearsCause : ∀ c : BitVec 4, (c.setWidth 32 <<< 4) &&& (0xFFFFFF00 : Word) = 0 := by decide
  calc s.clearError.statusWord
      = (bit s.txv <<< 10) ||| (bit s.rxfull <<< 9) ||| (bit s.pfull <<< 8) ||| 0 ||| 0 ||| 0 := rfl
    _ = s.statusWord &&& 0xFFFFFF00 := by
      simp only [State.statusWord, BitVec.and_or_distrib_right, keeps, clears, clearsCause]

theorem memRead_status_clearError (s : State) : memRead 0x00C s.clearError = memRead 0x00C s &&& 0xFFFFFF00 := by
  rw [memRead, memRead, regAt_status]
  exact statusWord_clearError s

/-- Settles O26: NOP has no effect, and a word `0x000000NN` with `NN` not 0 is a malformed NOP. -/
theorem nopChangesNothing : Obligations.NopChangesNothing := by
  refine fun s => ⟨exec_nop s, rfl, ?_, fun nn hnn => ?_⟩
  · rw [execute_instr _ _ s ((decode_eq_nop_iff _).mpr rfl), exec_nop]
  · obtain ⟨hopc, _, himm⟩ := setWidth_fields nn
    have hmem : opcField (nn.setWidth 32) ∈ operandlessOpcodes := by
      rw [hopc]
      decide
    exact execute_malformed s hmem (.inr (himm.symm ▸ hnn))

/-- Settles O27: ERRCLR is `clearError`, which leaves a legal state without an error as it is and zeroes the low byte of
STATUS; a malformed word is refused before it runs. -/
theorem errclrClearsErrorRecord : Obligations.ErrclrClearsErrorRecord := by
  refine fun s => ⟨exec_errclr s, rfl, fun w hopc hbits => ?_, fun hlegal herr => ?_, fun hstatus => ?_⟩
  · have hmem : opcField w ∈ operandlessOpcodes := by
      rw [hopc]
      decide
    exact execute_malformed s hmem hbits
  · rw [exec_errclr, clearError_eq_self s hlegal herr]
  · refine ⟨s.clearError, execute_errclrWord s, ?_⟩
    rw [memRead_status_clearError, hstatus]
    rfl

end Machine

end Sys2Proof
end

section
/-!
The encoder and the decoder at a command's own word, and the step that takes a write of it to CMD (30_encoding.md R80, R86).
-/

namespace Sys2Proof

/-- The fields of a word put together from its three fields (30_encoding.md R80); `word_of_fields` is the other way. -/
theorem fields_of_append (o : Byte) (r : BitVec 16) (m : Byte) :
    opcField (o ++ r ++ m) = o ∧ rsvField (o ++ r ++ m) = r ∧ immField (o ++ r ++ m) = m := by
  refine ⟨?_, ?_, BitVec.extractLsb'_append_eq_right⟩
  · rw [opcField, BitVec.extractLsb'_append_eq_of_le (by decide)]
    exact BitVec.extractLsb'_append_eq_left
  · rw [rsvField, BitVec.extractLsb'_append_eq_of_le (by decide)]
    exact BitVec.extractLsb'_append_eq_right

theorem commandOf_opcode_imm8 (i : Instr) : commandOf i.opcode i.imm8 = some i := by
  cases i <;> rfl

theorem hasOperand_or_imm8_eq_zero (i : Instr) : i.hasOperand = true ∨ i.imm8 = 0 := by
  cases i <;> simp [Instr.hasOperand, Instr.imm8]

theorem decode_encode (i : Instr) : decode (encode i) = .instr i := by
  obtain ⟨hopc, hrsv, himm⟩ := fields_of_append i.opcode 0x0000 i.imm8
  refine decode_command (encode i) i ?_ hrsv ?_
  · rw [encode, hopc, himm]
    exact commandOf_opcode_imm8 i
  · rw [encode, himm]
    exact hasOperand_or_imm8_eq_zero i

namespace Machine

/-- The step that takes a write of a command's word to CMD: the command, the answer and the taking of the input. -/
theorem step_command_next {s t : State} {i : Instr} {rest : List Input} (hline : s.resetLine = false)
    (hinbox : s.inbox = .access (cmdWrite (encode i)) :: rest) (hexec : exec i s = .next t) :
    step s = .next ((t.answer ⟨.ok, none⟩).setInbox rest) := by
  rw [step_cons s _ rest hinbox, takeInput_access _ s hline, runAccess_cmdWrite, execute_instr _ i s (decode_encode i),
    hexec, mapNext_next, mapNext_next]

end Machine

end Sys2Proof
end

section
/-!
The byte step of the checksum on natural numbers (41_checksum.md R120).
-/

namespace Sys2Proof.Machine

/-- One turn of the loop of 41_checksum.md R120 on an unbounded number, with the rule's mask. -/
def crcBitNat (x : Nat) : Nat := (if x &&& 0x8000 ≠ 0 then (x * 2) ^^^ 0x1021 else x * 2) &&& 0xFFFF

theorem toNat_and_top_ne_zero_iff (c : Crc) : c.toNat &&& 0x8000 ≠ 0 ↔ c &&& 0x8000 ≠ 0 := by
  rw [ne_eq, ne_eq, ← BitVec.toNat_inj, BitVec.toNat_and]
  rfl

/-- The rule's mask is what 16 bits do: the polynomial lies below it. -/
theorem toNat_crcBit (c : Crc) : (crcBit c).toNat = crcBitNat c.toNat := by
  have hmask (n : Nat) : n &&& 0xFFFF = n % 2 ^ 16 := Nat.and_two_pow_sub_one_eq_mod n 16
  have hshift : (c <<< 1).toNat = c.toNat * 2 % 2 ^ 16 := by
    rw [BitVec.toNat_shiftLeft, Nat.shiftLeft_eq]
  unfold crcBit crcBitNat
  rw [hmask]
  by_cases htop : c &&& 0x8000 ≠ 0
  · rw [if_pos htop, if_pos ((toNat_and_top_ne_zero_iff c).mpr htop), Nat.xor_mod_two_pow, BitVec.toNat_xor, hshift]
    rfl
  · rw [if_neg htop, if_neg (mt (toNat_and_top_ne_zero_iff c).mp htop), hshift]

/-- The loop on natural numbers, run once for each entry of a list. -/
theorem toNat_crcBits {α : Type} (turns : List α) (c : Crc) :
    (crcBits turns.length c).toNat = turns.foldl (fun x _ => crcBitNat x) c.toNat := by
  induction turns generalizing c with
  | nil => rfl
  | cons turn turns ih => rw [List.length_cons, crcBits_succ, ih, List.foldl_cons, toNat_crcBit]

theorem toNat_zext16_shiftLeft (b : Byte) : (zext16 b <<< 8).toNat = b.toNat * 256 := by
  rw [zext16, BitVec.toNat_shiftLeft, BitVec.toNat_setWidth, Nat.shiftLeft_eq]
  omega

/-- Settles O31: the loop's turns agree one by one, from the same value. -/
theorem crcStepFollowsPseudocode : Obligations.CrcStepFollowsPseudocode := by
  intro c b
  have hturns := toNat_crcBits (List.range 8) (c ^^^ (zext16 b <<< 8))
  rw [List.length_range, BitVec.toNat_xor, toNat_zext16_shiftLeft] at hturns
  exact hturns

end Sys2Proof.Machine
end

section
/-!
The residue of the checksum: a sequence followed by its own checksum bytes (41_checksum.md R122, R125).
-/

namespace Sys2Proof.Machine

theorem crcBit_of_top_clear (c : Crc) (h : c.getMsbD 0 = false) : crcBit c = c <<< 1 := by
  have htop : c.getLsbD 15 = false := h
  rw [crcBit_eq, htop]
  rfl

/-- While the bits that move out are 0 the loop only shifts. -/
theorem crcBits_of_top_clear (n : Nat) (c : Crc) (h : ∀ i < n, c.getMsbD i = false) : crcBits n c = c <<< n := by
  induction n generalizing c with
  | zero => exact (BitVec.shiftLeft_zero c).symm
  | succ n ih =>
    have hnext : ∀ i < n, (c <<< 1).getMsbD i = false := fun i hi => by
      rw [BitVec.getMsbD_shiftLeft]
      exact h (i + 1) (by omega)
    rw [crcBits_succ, crcBit_of_top_clear c (h 0 (by omega)), ih _ hnext, ← BitVec.shiftLeft_add, Nat.add_comm]

/-- The eight turns move a value of one byte to the high byte. -/
theorem crcBits_zext16 (b : Byte) : crcBits 8 (zext16 b) = zext16 b <<< 8 := by
  refine crcBits_of_top_clear 8 _ fun i hi => ?_
  rw [zext16, BitVec.getMsbD_setWidth, decide_eq_false (by omega), Bool.false_and]

theorem crcBits_zero (n : Nat) : crcBits n 0 = 0 := by
  rw [crcBits_of_top_clear n 0 fun i _ => BitVec.getMsbD_zero]
  exact BitVec.zero_shiftLeft n

/-- The high byte of a value cancels against itself where it enters the loop, and the low byte is left. -/
theorem xor_highByte (c : Crc) : c ^^^ (zext16 (c.extractLsb' 8 8) <<< 8) = zext16 (c.extractLsb' 0 8) := by
  refine BitVec.eq_of_getLsbD_eq fun i hi => ?_
  simp only [zext16, BitVec.getLsbD_xor, BitVec.getLsbD_shiftLeft, BitVec.getLsbD_setWidth, BitVec.getLsbD_extractLsb']
  by_cases hlow : i < 8
  · simp [hlow, hi]
  · simp [hlow, hi, show i - 8 < 8 by omega, show i - 8 < 16 by omega, show 8 + (i - 8) = i by omega]

/-- Folding the two bytes of a value into it, most significant first, leaves 0. -/
theorem crcFold_own_bytes (c : Crc) : crcFold c [c.extractLsb' 8 8, c.extractLsb' 0 8] = 0 := by
  have hhigh : crcStep c (c.extractLsb' 8 8) = zext16 (c.extractLsb' 0 8) <<< 8 := by
    rw [crcStep, xor_highByte, crcBits_zext16]
  have hlow (b : Byte) : crcStep (zext16 b <<< 8) b = 0 := by
    rw [crcStep, BitVec.xor_self]
    exact crcBits_zero 8
  rw [crcFold_cons, hhigh, crcFold_cons, hlow, crcFold_nil]

theorem checksum_append (p q : List Byte) : checksum (p ++ q) = crcFold (checksum p) q := crcFold_append 0 p q

theorem checksum_append_checksumBytes (p : List Byte) : checksum (p ++ checksumBytes p) = 0 := by
  rw [checksum_append, checksumBytes, crcFold_own_bytes]

theorem crcStep_zero_zero : crcStep 0x0000 0x00 = 0x0000 := crcBits_zero 8

theorem checksum_zero_cons (p : List Byte) : checksum (0x00 :: p) = checksum p := by
  rw [checksum_eq, crcFold_cons, crcStep_zero_zero, checksum_eq]

end Sys2Proof.Machine
end

section
/-!
The accumulator along a list of commands (41_checksum.md R123 to R125): CRC.BYTE folds its byte in, and only CRC.CLR and
SRESET write it besides.
-/

namespace Sys2Proof.Machine

theorem exec_crcClr (s : State) : exec .crcClr s = .next (s.setCrc 0x0000) := rfl

theorem exec_crcByte (b : Byte) (s : State) : exec (.crcByte b) s = .next (s.setCrc (crcStep s.crc b)) := rfl

theorem crcOperands_cons (i : Instr) (is : List Instr) : crcOperands (i :: is) = crcOperands [i] ++ crcOperands is := by
  cases i <;> rfl

/-- What a command other than CRC.CLR and SRESET does to the accumulator. -/
theorem exec_next_crc (i : Instr) (s : State) (hclr : i ≠ .crcClr) (hsreset : i ≠ .sreset) :
    ∃ t, exec i s = .next t ∧ t.crc = crcFold s.crc (crcOperands [i]) := by
  cases i with
  | nop => exact ⟨_, rfl, rfl⟩
  | errclr => exact ⟨_, rfl, rfl⟩
  | sreset => exact absurd rfl hsreset
  | crcClr => exact absurd rfl hclr
  | crcByte b => exact ⟨_, rfl, rfl⟩
  | frmClr => exact ⟨_, rfl, rfl⟩
  | frmPush b =>
    rcases execFrmPush_cases b s with ⟨_, h⟩ | ⟨_, _, h⟩ | ⟨_, _, h⟩
    · exact ⟨_, h, State.recordError_crc s _⟩
    · exact ⟨_, h, State.recordError_crc s _⟩
    · exact ⟨_, h, rfl⟩
  | frmBuild => exact ⟨_, rfl, rfl⟩
  | rxClr => exact ⟨_, rfl, rfl⟩
  | rxPush b =>
    rcases execRxPush_cases b s with ⟨_, h⟩ | ⟨_, h⟩
    · exact ⟨_, h, State.recordError_crc s _⟩
    · exact ⟨_, h, rfl⟩
  | parse => exact ⟨_, rfl, rfl⟩

/-- The accumulator after a list of pending commands that neither clear nor reset it. -/
theorem run_commands_crc (is : List Instr) (s : State) (hline : s.resetLine = false)
    (hinbox : s.inbox = commandInputs is) (hkeep : ∀ i ∈ is, i ≠ .crcClr ∧ i ≠ .sreset) :
    ∃ t, run is.length s = .next t ∧ t.inbox = [] ∧ t.crc = crcFold s.crc (crcOperands is) := by
  induction is generalizing s with
  | nil => exact ⟨s, rfl, hinbox, rfl⟩
  | cons i is ih =>
    obtain ⟨⟨hclr, hsreset⟩, hrest⟩ := List.forall_mem_cons.mp hkeep
    obtain ⟨t, hexec, hcrc⟩ := exec_next_crc i s hclr hsreset
    obtain ⟨t', hexec', _, _, hport⟩ := exec_next_samePort i s
    cases hexec.symm.trans hexec'
    obtain ⟨u, hrun, hdone, hfold⟩ := ih ((t.answer ⟨.ok, none⟩).setInbox (commandInputs is)) (hport.trans hline) rfl hrest
    refine ⟨u, ?_, hdone, ?_⟩
    · exact (run_succ _ _ _ (step_command_next hline hinbox hexec)).trans hrun
    · rw [hfold, State.setInbox_crc, State.answer_crc, hcrc, crcOperands_cons i is, crcFold_append]

/-- CRC.CLR starts a checksum, whatever the accumulator held. -/
theorem run_crcClr_commands (s : State) (is : List Instr) (hkeep : ∀ i ∈ is, i ≠ .crcClr ∧ i ≠ .sreset) :
    ∃ t, run (is.length + 1) (s.withCommands (.crcClr :: is)) = .next t ∧ t.inbox = [] ∧
      t.crc = checksum (crcOperands is) := by
  have hstep := step_command_next (s := s.withCommands (.crcClr :: is)) (rest := commandInputs is) rfl rfl (exec_crcClr _)
  rw [run_succ _ _ _ hstep]
  exact run_commands_crc is _ rfl rfl hkeep

/-- Settles O32: the accumulator by induction on the commands, the residue by folding a value's own bytes into it. -/
theorem checksumProperties : Obligations.ChecksumProperties := by
  refine ⟨run_crcClr_commands, rfl, checksum_append, ⟨crcStep_zero_zero, checksum_zero_cons⟩,
    checksum_append_checksumBytes, fun p => ⟨checksumBytes_length p, rfl⟩⟩

/-- Settles O30: only the value that enters the loop decides what leaves it. -/
theorem crcByteFoldsOneByte : Obligations.CrcByteFoldsOneByte := by
  refine ⟨fun s b => ⟨exec_crcByte b s, ?_⟩, fun c d b e h => congrArg (crcBits 8) h, ?_⟩
  · obtain ⟨hassembled, _⟩ := Laws.EncodingSelectsRow.crcByte b
    exact hassembled
  · decide

end Sys2Proof.Machine
end

section
/-!
The framer and the accumulator (41_checksum.md R126, 42_framer.md R141 to R143): a framer command does the same whatever
the accumulator holds.
-/

namespace Sys2Proof.Machine

theorem exec_frmClr (s : State) : exec .frmClr s = .next ((s.setPayload []).setTx []) := rfl

theorem exec_frmPush (b : Byte) (s : State) : exec (.frmPush b) s = execFrmPush b s := rfl

theorem exec_frmBuild (s : State) : exec .frmBuild s = .next (s.setTx (frame s.payload)) := rfl

theorem recordError_setCrc (s : State) (c : Crc) (k : Cause) :
    (s.setCrc c).recordError k = (s.recordError k).setCrc c := by
  rw [recordError_eq, recordError_eq]
  rfl

/-- The checks of FRM.PUSH and what it writes do not depend on the accumulator. -/
theorem execFrmPush_setCrc (b : Byte) (s : State) (c : Crc) :
    execFrmPush b (s.setCrc c) = mapNext (·.setCrc c) (execFrmPush b s) := by
  unfold execFrmPush
  rw [State.setCrc_payload]
  split_ifs
  · rw [raise_eq, raise_eq, recordError_setCrc, mapNext_next]
  · rw [raise_eq, raise_eq, recordError_setCrc, mapNext_next]
  · rfl

theorem exec_framer_setCrc {i : Instr} {b : Byte} (hi : i = .frmClr ∨ i = .frmPush b ∨ i = .frmBuild) (s : State)
    (c : Crc) : exec i (s.setCrc c) = mapNext (·.setCrc c) (exec i s) := by
  rcases hi with rfl | rfl | rfl
  · rfl
  · exact execFrmPush_setCrc b s c
  · rfl

/-- No framer command folds a byte into the accumulator or clears it. -/
theorem exec_framer_crc {i : Instr} {b : Byte} (hi : i = .frmClr ∨ i = .frmPush b ∨ i = .frmBuild) (s : State) :
    ∃ t, exec i s = .next t ∧ t.crc = s.crc := by
  rcases hi with rfl | rfl | rfl
  · exact exec_next_crc .frmClr s nofun nofun
  · exact exec_next_crc (.frmPush b) s nofun nofun
  · exact exec_next_crc .frmBuild s nofun nofun

/-- Settles O33: FRM.BUILD frames the payload alone, and a framer command commutes with writing the accumulator. -/
theorem framerKeepsOffAccumulator : Obligations.FramerKeepsOffAccumulator := by
  refine ⟨fun s => ⟨_, exec_frmBuild s, rfl⟩, fun s c b i hi => ?_⟩
  obtain ⟨t, hexec, hcrc⟩ := exec_framer_crc hi s
  refine ⟨t, hexec, hcrc, ?_⟩
  calc exec i (s.setCrc c)
      = mapNext (·.setCrc c) (exec i s) := exec_framer_setCrc hi s c
    _ = .next (t.setCrc c) := by rw [hexec, mapNext_next]

end Sys2Proof.Machine
end

section
/-!
The clear commands (41_checksum.md R123, 42_framer.md R141, 43_parser.md R160) and what the cleared buffers' registers, flags
and windows read (10_state.md R26, R37, R38).
-/

namespace Sys2Proof.Machine

theorem exec_rxClr (s : State) : exec .rxClr s = .next (s.setRx []) := rfl

/-- The three flags of STATUS computed from the buffers, at their bits (10_state.md R26). -/
theorem statusWord_bufferFlags (s : State) :
    s.statusWord.getLsbD 8 = s.pfull ∧ s.statusWord.getLsbD 9 = s.rxfull ∧ s.statusWord.getLsbD 10 = s.txv := by
  simp [State.statusWord, bit]

theorem winWord_nil (o : Nat) : winWord [] o = 0 := by
  simp [winWord, windowByte]

theorem memRead_txwin_of_empty (j : Fin 64) (s : State) (h : s.tx = []) :
    memRead (BitVec.ofNat 12 (0x100 + 4 * j.val)) s = 0 := by
  rw [memRead_txwin, h, winWord_nil]

theorem memRead_rxwin_of_empty (j : Fin 64) (s : State) (h : s.rx = []) :
    memRead (BitVec.ofNat 12 (0x200 + 4 * j.val)) s = 0 := by
  rw [memRead_rxwin, h, winWord_nil]

/-- Settles O29: each clear by its next state, then the registers, flags and windows of an empty buffer. -/
theorem clearCommandsEmptyTheirUnit : Obligations.ClearCommandsEmptyTheirUnit := by
  refine fun s => ⟨⟨exec_crcClr s, rfl, fun t ht => ?_⟩, ⟨exec_frmClr s, rfl, fun t ht => ?_⟩,
    ⟨exec_rxClr s, rfl, fun t ht => ?_⟩⟩
  · cases (exec_crcClr s).symm.trans ht
    exact ⟨rfl, rfl⟩
  · cases (exec_frmClr s).symm.trans ht
    obtain ⟨hpfull, _, htxv⟩ := statusWord_bufferFlags ((s.setPayload []).setTx [])
    exact ⟨rfl, rfl, hpfull, htxv, fun j => memRead_txwin_of_empty j _ rfl⟩
  · cases (exec_rxClr s).symm.trans ht
    obtain ⟨_, hrxfull, _⟩ := statusWord_bufferFlags (s.setRx [])
    exact ⟨rfl, hrxfull, rfl, fun j => memRead_rxwin_of_empty j _ rfl⟩

end Sys2Proof.Machine
end

section
/-!
The framer's commands (42_framer.md R140, R142, R143): the frame, each branch of FRM.PUSH by its check, and what FRM.BUILD
leaves in TXLEN, PLEN and TXV.
-/

namespace Sys2Proof.Machine

/-- The checksum of QPIGS, byte by byte (42_framer.md R140). -/
theorem checksum_qpigs : checksum [0x51, 0x50, 0x49, 0x47, 0x53] = 0xB7A9 := by
  have hQ : crcStep 0x0000 0x51 = 0x4AD4 := by decide
  have hP : crcStep 0x4AD4 0x50 = 0x677B := by decide
  have hI : crcStep 0x677B 0x49 = 0xBEAC := by decide
  have hG : crcStep 0xBEAC 0x47 = 0xD236 := by decide
  have hS : crcStep 0xD236 0x53 = 0xB7A9 := by decide
  rw [checksum_eq, crcFold_cons, hQ, crcFold_cons, hP, crcFold_cons, hI, crcFold_cons, hG, crcFold_cons, hS, crcFold_nil]

theorem frame_qpigs : frame [0x51, 0x50, 0x49, 0x47, 0x53] = [0x51, 0x50, 0x49, 0x47, 0x53, 0xB7, 0xA9, 0x0D] := by
  rw [frame, checksumBytes, checksum_qpigs]
  decide

/-- Settles O34: the frame is its definition, three bytes longer than the payload. -/
theorem frameLayout : Obligations.FrameLayout :=
  ⟨fun p _ => ⟨rfl, frame_length p⟩, frame_qpigs⟩

theorem isAscii_eq_true_iff (b : Byte) : isAscii b = true ↔ b ≤ 0x7F := decide_eq_true_iff

theorem isAscii_eq_false_iff (b : Byte) : isAscii b = false ↔ b > 0x7F := by
  rw [← Bool.not_eq_true, isAscii_eq_true_iff, BitVec.not_le, gt_iff_lt]

theorem execFrmPush_nonAscii {b : Byte} (s : State) (h : b > 0x7F) : execFrmPush b s = raise .nonAscii s :=
  if_pos ((isAscii_eq_false_iff b).mpr h)

theorem execFrmPush_ascii {b : Byte} (s : State) (h : b ≤ 0x7F) :
    execFrmPush b s =
      if s.payload.length = 32 then raise .payloadFull s else .next (s.setPayload (s.payload ++ [b])) :=
  if_neg (Bool.not_eq_false _ ▸ (isAscii_eq_true_iff b).mpr h)

theorem exec_frmPush_full {b : Byte} {s : State} (h : b ≤ 0x7F) (hfull : s.payload.length = 32) :
    exec (.frmPush b) s = raise .payloadFull s :=
  (execFrmPush_ascii s h).trans (if_pos hfull)

theorem exec_frmPush_append {b : Byte} {s : State} (h : b ≤ 0x7F) (hroom : s.payload.length ≠ 32) :
    exec (.frmPush b) s = .next (s.setPayload (s.payload ++ [b])) :=
  (execFrmPush_ascii s h).trans (if_neg hroom)

/-- FRM.PUSH leaves the built frame alone, on its refusals and on the append. -/
theorem execFrmPush_next_tx (b : Byte) (s : State) : ∃ t, execFrmPush b s = .next t ∧ t.tx = s.tx := by
  rcases execFrmPush_cases b s with ⟨_, h⟩ | ⟨_, _, h⟩ | ⟨_, _, h⟩
  · exact ⟨_, h, State.recordError_tx s _⟩
  · exact ⟨_, h, State.recordError_tx s _⟩
  · exact ⟨_, h, rfl⟩

/-- STATUS.PFULL at the capacity (10_state.md R26). -/
theorem memRead_status_pfull {s : State} (h : s.payload.length = 32) : (memRead 0x00C s).getLsbD 8 = true := by
  obtain ⟨hpfull, _, _⟩ := statusWord_bufferFlags s
  exact hpfull.trans (beq_iff_eq.mpr h)

/-- STATUS.TXV while a frame stands (10_state.md R26). -/
theorem memRead_status_txv {s : State} (h : s.tx.length ≠ 0) : (memRead 0x00C s).getLsbD 10 = true := by
  obtain ⟨_, _, htxv⟩ := statusWord_bufferFlags s
  exact htxv.trans (bne_iff_ne.mpr h)

/-- Settles O35: the two checks of FRM.PUSH in their order, then the append. -/
theorem frmPushAppendsAsciiByte : Obligations.FrmPushAppendsAsciiByte := by
  intro s b
  obtain ⟨hassembled, _⟩ := Laws.EncodingSelectsRow.frmPush b
  refine ⟨hassembled, execFrmPush_nonAscii s, exec_frmPush_full, exec_frmPush_append, fun hascii hlast => ?_,
    fun t ht => ?_, ⟨_, rfl, rfl⟩, ⟨_, rfl, rfl, rfl⟩⟩
  · refine ⟨_, exec_frmPush_append hascii (by omega), memRead_status_pfull ?_⟩
    rw [State.setPayload_payload, List.length_append, hlast, List.length_singleton]
  · obtain ⟨u, hu, htx⟩ := execFrmPush_next_tx b s
    cases hu.symm.trans ht
    exact htx

theorem memRead_plen (s : State) : memRead 0x018 s = BitVec.ofNat 32 s.payload.length := rfl

theorem memRead_txlen (s : State) : memRead 0x01C s = BitVec.ofNat 32 s.tx.length := rfl

/-- TXLEN and PLEN after FRM.BUILD do not wrap while the payload is within its capacity. -/
theorem memRead_txlen_build {s : State} (h : s.payload.length ≤ 32) :
    (memRead 0x01C (s.setTx (frame s.payload))).toNat = (memRead 0x018 (s.setTx (frame s.payload))).toNat + 3 := by
  rw [memRead_txlen, memRead_plen, State.setTx_tx, State.setTx_payload, frame_length, BitVec.toNat_ofNat,
    BitVec.toNat_ofNat]
  omega

/-- Settles O36: FRM.BUILD writes the frame alone, so the payload it frames stays. -/
theorem frmBuildWritesFrame : Obligations.FrmBuildWritesFrame := by
  refine ⟨fun s => ⟨exec_frmBuild s, rfl⟩, fun s t hlegal ht => ?_, fun s t ht hp => ?_, fun s t ht hp => ?_⟩ <;>
    cases (exec_frmBuild s).symm.trans ht
  · obtain ⟨hpayload, _, _⟩ := hlegal.buffers
    have hlength : (s.setTx (frame s.payload)).tx.length = s.payload.length + 3 := frame_length s.payload
    refine ⟨hlegal.payloads, by omega, memRead_txlen_build hpayload, memRead_status_txv (by omega), rfl⟩
  · rw [State.setTx_tx, hp]
    rfl
  · rw [memRead_txlen, State.setTx_tx, hp, frame_qpigs]
    exact ⟨rfl, rfl⟩

end Sys2Proof.Machine
end

section
/-!
Running a list of commands one command further (20_memory.md R69): a command neither reads nor changes what is pending behind
it, so a run over a list of commands starts every longer run.
-/

namespace Sys2Proof.Machine

theorem recordError_setInbox (s : State) (l : List Input) (k : Cause) :
    (s.setInbox l).recordError k = (s.recordError k).setInbox l := by
  rw [recordError_eq, recordError_eq]
  rfl

/-- No command reads what is pending. -/
theorem exec_setInbox (i : Instr) (s : State) (l : List Input) :
    exec i (s.setInbox l) = mapNext (·.setInbox l) (exec i s) := by
  cases i with
  | frmPush b =>
    change execFrmPush b (s.setInbox l) = mapNext _ (execFrmPush b s)
    unfold execFrmPush
    rw [State.setInbox_payload, raise_eq, raise_eq, recordError_setInbox, recordError_setInbox]
    split_ifs <;> rfl
  | rxPush b =>
    change execRxPush b (s.setInbox l) = mapNext _ (execRxPush b s)
    unfold execRxPush
    rw [State.setInbox_rx, raise_eq, recordError_setInbox]
    split_ifs <;> rfl
  | _ => rfl

/-- The step that takes a command, from what the command does whatever is pending. -/
theorem step_command_setInbox {s t : State} {i : Instr} (hline : s.resetLine = false) (hexec : exec i s = .next t)
    (rest : List Input) :
    step (s.setInbox (.access (cmdWrite (encode i)) :: rest)) = .next ((t.answer ⟨.ok, none⟩).setInbox rest) := by
  have hpending := exec_setInbox i s (.access (cmdWrite (encode i)) :: rest)
  rw [hexec, mapNext_next] at hpending
  have hstep := step_command_next (s := s.setInbox (.access (cmdWrite (encode i)) :: rest)) hline rfl hpending
  exact hstep

theorem commandInputs_append_singleton (is : List Instr) (i : Instr) (rest : List Input) :
    commandInputs (is ++ [i]) ++ rest = commandInputs is ++ .access (cmdWrite (encode i)) :: rest := by
  simp [commandInputs]

theorem run_add {m : Nat} {s t : State} (n : Nat) (h : run m s = .next t) : run (m + n) s = run n t := by
  induction m generalizing s with
  | zero =>
    cases h
    rw [Nat.zero_add]
  | succ m ih =>
    rw [Nat.succ_add]
    rw [run] at h ⊢
    cases hstep : step s with
    | next u =>
      rw [hstep] at h
      exact ih h
    | fault r =>
      rw [hstep] at h
      cases h
    | refused r =>
      rw [hstep] at h
      cases h

/-- The commands of a list take the block, with its reset input released, to `t`, and whatever is pending behind them is still
pending then; what `t` itself has pending does not count. -/
structure State.RunsTo (s : State) (is : List Instr) (t : State) : Prop where
  line : t.resetLine = false
  runs : ∀ rest, run is.length ((s.setResetLine false).setInbox (commandInputs is ++ rest)) = .next (t.setInbox rest)

theorem runsTo_nil (s : State) : s.RunsTo [] (s.setResetLine false) := ⟨rfl, fun _ => rfl⟩

theorem runsTo_withCommands {s t : State} {is : List Instr} (h : s.RunsTo is t) :
    run is.length (s.withCommands is) = .next (t.setInbox []) := by
  have hrun := h.runs []
  rw [List.append_nil] at hrun
  exact hrun

/-- One command more: its effect, then its answer. -/
theorem runsTo_append_singleton {s t u : State} {is : List Instr} {i : Instr} (h : s.RunsTo is t)
    (hexec : exec i t = .next u) : s.RunsTo (is ++ [i]) (u.answer ⟨.ok, none⟩) := by
  obtain ⟨v, hv, _, _, hline⟩ := exec_next_samePort i t
  cases hv.symm.trans hexec
  refine ⟨hline.trans h.line, fun rest => ?_⟩
  rw [commandInputs_append_singleton, List.length_append, List.length_singleton, run_add 1 (h.runs _),
    run_succ 0 _ _ (step_command_setInbox h.line hexec rest), run_zero]

end Sys2Proof.Machine
end

section
/-!
The built frame along a list of commands (42_framer.md R144): FRM.BUILD writes it whole, FRM.CLR and SRESET empty it, and every
other command keeps it.
-/

namespace Sys2Proof.Machine

/-- What a command does to the built frame. -/
theorem exec_next_tx (i : Instr) (s : State) :
    ∃ t, exec i s = .next t ∧
      (i = .frmBuild ∧ t.tx = frame s.payload ∨ i ≠ .frmBuild ∧ (t.tx = s.tx ∨ t.tx = [])) := by
  cases i with
  | nop => exact ⟨_, rfl, .inr ⟨nofun, .inl rfl⟩⟩
  | errclr => exact ⟨_, rfl, .inr ⟨nofun, .inl rfl⟩⟩
  | sreset => exact ⟨_, rfl, .inr ⟨nofun, .inr rfl⟩⟩
  | crcClr => exact ⟨_, rfl, .inr ⟨nofun, .inl rfl⟩⟩
  | crcByte b => exact ⟨_, rfl, .inr ⟨nofun, .inl rfl⟩⟩
  | frmClr => exact ⟨_, rfl, .inr ⟨nofun, .inr rfl⟩⟩
  | frmPush b =>
    obtain ⟨t, hexec, htx⟩ := execFrmPush_next_tx b s
    exact ⟨t, hexec, .inr ⟨nofun, .inl htx⟩⟩
  | frmBuild => exact ⟨_, rfl, .inl ⟨rfl, rfl⟩⟩
  | rxClr => exact ⟨_, rfl, .inr ⟨nofun, .inl rfl⟩⟩
  | rxPush b =>
    rcases execRxPush_cases b s with ⟨_, h⟩ | ⟨_, h⟩
    · exact ⟨_, h, .inr ⟨nofun, .inl (State.recordError_tx s _)⟩⟩
    · exact ⟨_, h, .inr ⟨nofun, .inl rfl⟩⟩
  | parse => exact ⟨_, rfl, .inr ⟨nofun, .inl rfl⟩⟩

/-- A frame is that of the payload held when the last FRM.BUILD of a list ran, the list run from `s`. -/
def State.LastBuilt (s : State) (is : List Instr) (tx : List Byte) : Prop :=
  ∃ (before after : List Instr) (u : State), is = before ++ .frmBuild :: after ∧ .frmBuild ∉ after ∧
    run before.length (s.withCommands before) = .next u ∧ tx = frame u.payload

theorem lastBuilt_append_build {s t : State} {is : List Instr} (h : s.RunsTo is t) :
    s.LastBuilt (is ++ [.frmBuild]) (frame t.payload) :=
  ⟨is, [], t.setInbox [], rfl, List.not_mem_nil, runsTo_withCommands h, rfl⟩

theorem lastBuilt_append_other {s : State} {is : List Instr} {tx : List Byte} {i : Instr} (h : s.LastBuilt is tx)
    (hi : i ≠ .frmBuild) : s.LastBuilt (is ++ [i]) tx := by
  obtain ⟨before, after, u, rfl, hafter, hrun, htx⟩ := h
  refine ⟨before, after ++ [i], u, by simp, ?_, hrun, htx⟩
  rw [List.mem_append, List.mem_singleton]
  exact not_or.mpr ⟨hafter, hi.symm⟩

/-- The frame after a list of commands, by induction on its last command. -/
theorem runsTo_lastBuilt {s : State} (hempty : s.tx = []) (is : List Instr) :
    ∃ t, s.RunsTo is t ∧ (t.tx = [] ∨ s.LastBuilt is t.tx) := by
  induction is using List.reverseRecOn with
  | nil => exact ⟨_, runsTo_nil s, .inl hempty⟩
  | append_singleton is i ih =>
    obtain ⟨t, hruns, hframe⟩ := ih
    obtain ⟨u, hexec, hwrites⟩ := exec_next_tx i t
    refine ⟨_, runsTo_append_singleton hruns hexec, ?_⟩
    rw [State.answer_tx]
    rcases hwrites with ⟨rfl, hbuilt⟩ | ⟨hother, hkept | hcleared⟩
    · rw [hbuilt]
      exact .inr (lastBuilt_append_build hruns)
    · rw [hkept]
      exact hframe.imp_right fun hlast => lastBuilt_append_other hlast hother
    · exact .inl hcleared

/-- Settles O37: along the list only FRM.BUILD writes a frame, and it writes the whole frame of the payload of that moment. -/
theorem frameIsOfPayloadAtLastBuild : Obligations.FrameIsOfPayloadAtLastBuild := by
  intro s is hempty
  obtain ⟨t, hruns, hframe⟩ := runsTo_lastBuilt hempty is
  exact ⟨t.setInbox [], runsTo_withCommands hruns, hframe⟩

end Sys2Proof.Machine
end

section
/-!
RX.PUSH (43_parser.md R161): its refusal at the capacity, its append below it, and what the last byte that fits leaves in
STATUS.
-/

namespace Sys2Proof.Machine

theorem exec_rxPush_full (b : Byte) {s : State} (hfull : s.rx.length = 128) :
    exec (.rxPush b) s = raise .rxFull s :=
  if_pos hfull

theorem exec_rxPush_append (b : Byte) {s : State} (hroom : s.rx.length ≠ 128) :
    exec (.rxPush b) s = .next (s.setRx (s.rx ++ [b])) :=
  if_neg hroom

/-- STATUS.RXFULL at the capacity (10_state.md R26). -/
theorem memRead_status_rxfull {s : State} (h : s.rx.length = 128) : (memRead 0x00C s).getLsbD 9 = true := by
  obtain ⟨_, hrxfull, _⟩ := statusWord_bufferFlags s
  exact hrxfull.trans (beq_iff_eq.mpr h)

/-- Settles O39: the one check of RX.PUSH, then the append; a refusal only records the error. -/
theorem rxPushAppendsByte : Obligations.RxPushAppendsByte := by
  intro s b
  obtain ⟨hassembled, _⟩ := Laws.EncodingSelectsRow.rxPush b
  refine ⟨hassembled, fun hfull => ⟨exec_rxPush_full b hfull, fun t ht => ?_⟩, exec_rxPush_append b, fun hlast => ?_,
    ⟨_, rfl, rfl, rfl⟩⟩
  · cases (exec_rxPush_full b hfull).symm.trans ht
    exact State.recordError_rx s .rxFull
  · refine ⟨_, exec_rxPush_append b (by omega), memRead_status_rxfull ?_⟩
    rw [State.setRx_rx, List.length_append, hlast, List.length_singleton]

end Sys2Proof.Machine
end

section
/-!
The lossy decode under each policy, and the strip (43_parser.md R164, R165).
-/

namespace Sys2Proof.Machine

theorem decodeByte_replace (b : Byte) :
    decodeByte false b = [if b ≤ 0x7F then Chr.ascii (b.setWidth 7) else Chr.repl] := by
  by_cases hascii : b ≤ 0x7F
  · rw [decodeByte, if_pos hascii, if_pos hascii]
  · rw [decodeByte, if_neg hascii, if_neg hascii, if_neg Bool.false_ne_true]

theorem decodeByte_drop (b : Byte) : decodeByte true b = if b ≤ 0x7F then [Chr.ascii (b.setWidth 7)] else [] := rfl

theorem decodeText_replace (rx : List Byte) :
    decodeText rx false = rx.map fun b => if b ≤ 0x7F then Chr.ascii (b.setWidth 7) else Chr.repl := by
  induction rx with
  | nil => rfl
  | cons b rx ih => rw [decodeText_cons, decodeByte_replace, ih, List.map_cons, List.singleton_append]

theorem decodeText_drop (rx : List Byte) :
    decodeText rx true = (rx.filter fun b => b ≤ 0x7F).map fun b => Chr.ascii (b.setWidth 7) := by
  induction rx with
  | nil => rfl
  | cons b rx ih =>
    rw [decodeText_cons, decodeByte_drop, ih, List.filter_cons]
    by_cases hascii : b ≤ 0x7F
    · rw [if_pos hascii, if_pos (decide_eq_true hascii)]
      rfl
    · rw [if_neg hascii, if_neg (decide_eq_true_iff.not.mpr hascii)]
      rfl

/-- Settles O42: byte by byte, the decode under REPLACE is a map and under DROP a filter before it. -/
theorem lossyDecodeFollowsPolicy : Obligations.LossyDecodeFollowsPolicy := by
  refine fun rx => ⟨decodeText_replace rx, decodeText_drop rx, fun b _ hascii => ?_⟩
  have hlt : b.toNat < 2 ^ 7 := Nat.lt_succ_of_le (BitVec.le_def.mp hascii)
  rw [BitVec.toNat_setWidth, Nat.mod_eq_of_lt hlt]

theorem isStripped_iff (c : Chr) : isStripped c = true ↔ c = .ascii 0x00 ∨ c = .ascii 0x0A ∨ c = .ascii 0x0D := by
  simp [isStripped, or_assoc]

theorem not_isStripped_of_head?_stripStart {t : List Chr} {c : Chr} (h : (stripStart t).head? = some c) :
    isStripped c = false := by
  have hhead := List.head?_dropWhile_not isStripped t
  rw [stripStart] at h
  rwa [h] at hhead

/-- Stripping the end is stripping the start of the reversed text. -/
theorem reverse_stripEnd (t : List Chr) : (stripEnd t).reverse = stripStart t.reverse := List.reverse_reverse _

theorem not_isStripped_of_getLast?_stripEnd {t : List Chr} {c : Chr} (h : (stripEnd t).getLast? = some c) :
    isStripped c = false := by
  rw [← List.head?_reverse, reverse_stripEnd] at h
  exact not_isStripped_of_head?_stripStart h

/-- What stripping the start leaves at its head stays there when the end is stripped. -/
theorem head?_stripEnd {t : List Chr} {c : Chr} (h : (stripEnd t).head? = some c) : t.head? = some c := by
  obtain ⟨after, hafter⟩ := stripEnd_prefix t
  rw [← hafter, List.head?_append, h, Option.some_or]

theorem stripStart_removes (t : List Chr) :
    ∃ before, t = before ++ stripStart t ∧ ∀ c ∈ before, isStripped c = true :=
  ⟨t.takeWhile isStripped, List.takeWhile_append_dropWhile.symm, fun _ => List.mem_takeWhile_imp⟩

theorem stripEnd_removes (t : List Chr) : ∃ after, t = stripEnd t ++ after ∧ ∀ c ∈ after, isStripped c = true := by
  obtain ⟨run, hsplit, hrun⟩ := stripStart_removes t.reverse
  refine ⟨run.reverse, ?_, fun c hc => hrun c (List.mem_reverse.mp hc)⟩
  rw [← reverse_stripEnd] at hsplit
  rw [← List.reverse_inj, hsplit, List.reverse_append, List.reverse_reverse]

/-- Settles O43: each end loses a run of stripped characters, and stops at the first other one. -/
theorem stripRemovesEndRunsOnly : Obligations.StripRemovesEndRunsOnly := by
  refine ⟨isStripped_iff, fun t => ?_⟩
  obtain ⟨before, hbefore, hrunBefore⟩ := stripStart_removes t
  obtain ⟨after, hafter, hrunAfter⟩ := stripEnd_removes (stripStart t)
  refine ⟨before, after, ?_, hrunBefore, hrunAfter, fun c hc => ?_, fun c hc => ?_⟩
  · calc t = before ++ stripStart t := hbefore
      _ = before ++ (strip t ++ after) := congrArg (before ++ ·) hafter
      _ = before ++ strip t ++ after := (List.append_assoc ..).symm
  · exact not_isStripped_of_head?_stripStart (head?_stripEnd hc)
  · exact not_isStripped_of_getLast?_stripEnd hc

/-- A text that, past a run of stripped characters, stands at another one is stripped up to that one. -/
theorem strip_of_first_kept {before after : List Chr} {c : Chr} (hbefore : ∀ x ∈ before, isStripped x = true)
    (hc : isStripped c = false) : ∃ u, strip (before ++ c :: after) = c :: u := by
  have hstart : stripStart (before ++ c :: after) = c :: after := by
    rw [stripStart, List.dropWhile_append_of_pos hbefore, List.dropWhile_cons_of_neg (by simp [hc])]
  obtain ⟨run, hsplit, hrun⟩ := stripEnd_removes (c :: after)
  rw [strip, hstart]
  cases hend : stripEnd (c :: after) with
  | nil =>
    rw [hend, List.nil_append] at hsplit
    have hstripped : isStripped c = true := hrun c (hsplit ▸ List.mem_cons_self)
    exact absurd (hc.symm.trans hstripped) Bool.false_ne_true
  | cons d u =>
    rw [hend, List.cons_append] at hsplit
    cases hsplit
    exact ⟨u, rfl⟩

end Sys2Proof.Machine
end

section
/-!
The split (43_parser.md R167): the tokens by the characters they are made of, and the rule's own loop.
-/

namespace Sys2Proof.Machine

/-- A character other than a space goes to the first token. -/
theorem split_other_cons {c : Chr} (u : List Chr) (h : c ≠ chrSpace) :
    ∃ tok toks, split u = tok :: toks ∧ split (c :: u) = (c :: tok) :: toks := by
  obtain ⟨tok, toks, htoks⟩ := List.exists_cons_of_ne_nil (split_ne_nil u)
  refine ⟨tok, toks, htoks, ?_⟩
  rw [split_other c u h, htoks]
  rfl

theorem space_not_mem_of_mem_split (u : List Chr) : ∀ tok ∈ split u, chrSpace ∉ tok := by
  induction u with
  | nil => simp
  | cons c u ih =>
    by_cases hc : c = chrSpace
    · subst hc
      rw [split_space, List.forall_mem_cons]
      exact ⟨List.not_mem_nil, ih⟩
    · obtain ⟨tok, toks, htoks, hsplit⟩ := split_other_cons u hc
      rw [htoks, List.forall_mem_cons] at ih
      obtain ⟨htok, hrest⟩ := ih
      rw [hsplit, List.forall_mem_cons, List.mem_cons, not_or]
      exact ⟨⟨Ne.symm hc, htok⟩, hrest⟩

/-- Joined by single spaces the tokens give the text back. -/
theorem intercalate_split (u : List Chr) : List.intercalate [chrSpace] (split u) = u := by
  induction u with
  | nil => rfl
  | cons c u ih =>
    by_cases hc : c = chrSpace
    · subst hc
      rw [split_space, List.intercalate_cons_of_ne_nil (split_ne_nil u), ih]
      rfl
    · obtain ⟨tok, toks, htoks, hsplit⟩ := split_other_cons u hc
      rw [htoks] at ih
      rw [hsplit]
      cases toks with
      | nil => simpa using ih
      | cons => simpa [List.intercalate_cons_cons] using ih

theorem length_split (u : List Chr) : (split u).length = u.count chrSpace + 1 := by
  induction u with
  | nil => rfl
  | cons c u ih =>
    by_cases hc : c = chrSpace
    · subst hc
      rw [split_space, List.length_cons, ih, List.count_cons_self]
    · rw [split_other c u hc, consToken_length c _ (split_ne_nil u), ih, List.count_cons_of_ne hc]

/-- One turn of the loop of `Split(u)`: a space opens a new token, another character ends the last one (43_parser.md
R167). -/
def splitTurn (toks : List (List Chr)) (c : Chr) : List (List Chr) :=
  if c = chrSpace then toks ++ [[]] else toks.dropLast ++ [toks.getLastD [] ++ [c]]

theorem splitTurn_space (toks : List (List Chr)) : splitTurn toks chrSpace = toks ++ [[]] := if_pos rfl

theorem splitTurn_other (done : List (List Chr)) (last : List Chr) {c : Chr} (h : c ≠ chrSpace) :
    splitTurn (done ++ [last]) c = done ++ [last ++ [c]] := by
  rw [splitTurn, if_neg h, List.dropLast_concat, List.getLastD_concat]

/-- The loop from the tokens read so far: the text's first token goes to the last of them, the others behind it. -/
theorem foldl_splitTurn {u : List Chr} {tok : List Chr} {toks : List (List Chr)} (hsplit : split u = tok :: toks)
    (done : List (List Chr)) (last : List Chr) :
    u.foldl splitTurn (done ++ [last]) = done ++ (last ++ tok) :: toks := by
  induction u generalizing done last tok toks with
  | nil =>
    cases hsplit
    rw [List.append_nil]
    rfl
  | cons c u ih =>
    rw [List.foldl_cons]
    by_cases hc : c = chrSpace
    · subst hc
      obtain ⟨next, rest, hnext⟩ := List.exists_cons_of_ne_nil (split_ne_nil u)
      rw [split_space, hnext] at hsplit
      cases hsplit
      rw [splitTurn_space, ih hnext]
      simp
    · obtain ⟨next, rest, hnext, hcons⟩ := split_other_cons u hc
      cases hcons.symm.trans hsplit
      rw [splitTurn_other done last hc, ih hnext, List.append_assoc, List.singleton_append]

theorem split_eq_foldl (u : List Chr) : split u = u.foldl splitTurn [[]] := by
  obtain ⟨tok, toks, hsplit⟩ := List.exists_cons_of_ne_nil (split_ne_nil u)
  have hloop := foldl_splitTurn hsplit [] []
  rw [List.nil_append, List.nil_append, List.nil_append] at hloop
  exact hsplit.trans hloop.symm

theorem parseText_open (u : List Chr) : parseText (chrOpen :: u) = parseTokens (split u) := by
  rw [parseText, if_pos rfl]

/-- Settles O45: each property by induction on the text, by what its first character does to the tokens. -/
theorem splitCutsAtEverySpace : Obligations.SplitCutsAtEverySpace :=
  fun u => ⟨parseText_open u, space_not_mem_of_mem_split u, intercalate_split u, length_split u, split_eq_foldl u⟩

end Sys2Proof.Machine
end

section
/-!
The parse of a text (43_parser.md R166 to R174): each outcome by what gives it, and what a parse depends on.
-/

namespace Sys2Proof.Machine

theorem parse_of_not_opening {rx : List Byte} {drop : Bool} (h : ∀ u, strip (decodeText rx drop) ≠ chrOpen :: u) :
    parse rx drop = emptyResult .noStart 0 0 := by
  rcases parse_cases rx drop with ⟨hparse, _⟩ | ⟨u, hopen, _⟩
  · exact hparse
  · exact absurd hopen (h u)

theorem parse_of_opening {rx : List Byte} {drop : Bool} {u : List Chr} (h : strip (decodeText rx drop) = chrOpen :: u) :
    parse rx drop = parseTokens (split u) := by
  rw [parse, h, parseText_open]

theorem parseTokens_of_few {toks : List (List Chr)} (h : toks.length < 13) :
    parseTokens toks = emptyResult .fewTokens 0 toks.length :=
  if_pos h

theorem parseTokens_of_failure {toks : List (List Chr)} {k : Fin 10} {c : Reason} (h : 13 ≤ toks.length)
    (hfail : firstFailure toks fieldOrder = some (k, c)) : parseTokens toks = emptyResult c k.val toks.length := by
  rw [parseTokens, if_neg (Nat.not_lt.mpr h), hfail]

theorem parseTokens_of_record {toks : List (List Chr)} (h : 13 ≤ toks.length)
    (hconv : firstFailure toks fieldOrder = none) : parseTokens toks = recordResult toks := by
  rw [parseTokens, if_neg (Nat.not_lt.mpr h), hconv]

/-- Fields that convert are passed over. -/
theorem firstFailure_append {toks : List (List Chr)} (before after : List (Fin 10))
    (h : ∀ j ∈ before, ∃ sig scl, convField toks j = .value sig scl) :
    firstFailure toks (before ++ after) = firstFailure toks after := by
  induction before with
  | nil => rfl
  | cons j before ih =>
    obtain ⟨⟨sig, scl, hj⟩, hrest⟩ := List.forall_mem_cons.mp h
    rw [List.cons_append, firstFailure, hj]
    exact ih hrest

/-- The fields before `k` in the order of the loop have smaller numbers. -/
theorem fieldOrder_split (k : Fin 10) :
    fieldOrder = fieldOrder.take k ++ k :: fieldOrder.drop (k + 1) ∧ ∀ j ∈ fieldOrder.take k, j < k := by
  revert k
  decide

theorem firstFailure_fieldOrder {toks : List (List Chr)} {k : Fin 10} {c : Reason} (hfail : convField toks k = .fail c)
    (hbefore : ∀ j : Fin 10, j < k → ∃ sig scl, convField toks j = .value sig scl) :
    firstFailure toks fieldOrder = some (k, c) := by
  obtain ⟨horder, hless⟩ := fieldOrder_split k
  rw [horder, firstFailure_append _ _ fun j hj => hbefore j (hless j hj), firstFailure, hfail]

theorem recordResult_eq {toks : List (List Chr)} {f : Vector (Int × Nat) 10}
    (h : ∀ k : Fin 10, convField toks k = .value (f[k]).1 (f[k]).2) :
    recordResult toks = { valid := true, reason := .ok, fidx := 0, ntok := toks.length, fields := f } := by
  have hfields : (Vector.ofFn fun k => pairOf (convField toks k)) = f := by
    refine Vector.ext fun i hi => ?_
    rw [Vector.getElem_ofFn, h ⟨i, hi⟩]
    rfl
  rw [recordResult, hfields]

/-- The indices of the tokens the fields take, in field order (43_parser.md R170). -/
def surfacedTokens : List Nat := [0, 1, 2, 3, 4, 5, 8, 9, 10, 12]

/-- `SCHEMA[k]` as its two columns: the token indices, and the four integer fields (10_state.md R36). -/
theorem convField_eq (toks : List (List Chr)) (k : Fin 10) :
    convField toks k =
      if k = 4 ∨ k = 5 ∨ k = 7 ∨ k = 9 then convInt (toks.getD (surfacedTokens.getD k.val 0) [])
      else convFloat (toks.getD (surfacedTokens.getD k.val 0) []) := by
  fin_cases k <;> rfl

/-- Settles O49: the outcomes in the order of the rule's checks, and the loop over the fields by what converts before the
first that fails. -/
theorem parseReportsFirstFailureOrRecord : Obligations.ParseReportsFirstFailureOrRecord := by
  refine ⟨convField_eq, fun rx drop => ⟨parse_of_not_opening, fun u hopen => ?_⟩⟩
  rw [parse_of_opening hopen]
  refine ⟨parseTokens_of_few, fun hcount k c hfail hbefore => ?_, fun hcount f hf => ?_⟩
  · exact parseTokens_of_failure hcount (firstFailure_fieldOrder hfail hbefore)
  · have hconv : firstFailure (split u) fieldOrder = none :=
      (firstFailure_none _ _).mpr fun k _ => ⟨_, _, hf k⟩
    rw [parseTokens_of_record hcount hconv, recordResult_eq hf]

theorem schema_mem_surfacedTokens (k : Fin 10) : (schema[k]).1 ∈ surfacedTokens := by
  revert k
  decide

/-- A field reads its own token only. -/
theorem convField_congr {a b : List (List Chr)} (h : ∀ n ∈ surfacedTokens, a[n]? = b[n]?) (k : Fin 10) :
    convField a k = convField b k := by
  have htoken : fieldToken a k = fieldToken b k := by
    rw [fieldToken, fieldToken, List.getD_eq_getElem?_getD, List.getD_eq_getElem?_getD,
      h _ (schema_mem_surfacedTokens k)]
  rw [convField, convField, htoken]

theorem firstFailure_congr {a b : List (List Chr)} (h : ∀ k, convField a k = convField b k) (ks : List (Fin 10)) :
    firstFailure a ks = firstFailure b ks := by
  induction ks with
  | nil => rfl
  | cons k ks ih => rw [firstFailure, firstFailure, h k, ih]

/-- Past the count a parse depends on the conversions of the ten fields alone. -/
theorem parseTokens_congr {a b : List (List Chr)} (ha : 13 ≤ a.length) (hb : 13 ≤ b.length)
    (h : ∀ k, convField a k = convField b k) : parseTokens a = { parseTokens b with ntok := a.length } := by
  have hfailure := firstFailure_congr h fieldOrder
  cases hfirst : firstFailure b fieldOrder with
  | some r =>
    rw [parseTokens_of_failure ha (hfailure.trans hfirst), parseTokens_of_failure hb hfirst]
    rfl
  | none =>
    rw [parseTokens_of_record ha (hfailure.trans hfirst), parseTokens_of_record hb hfirst, recordResult, recordResult]
    simp only [h]

/-- With enough tokens a parse gives the record, or the failure of a field (43_parser.md R174). -/
theorem parseTokens_reason {toks : List (List Chr)} (h : 13 ≤ toks.length) :
    (parseTokens toks).reason = .ok ∨ (parseTokens toks).reason = .notNumeric ∨
      (parseTokens toks).reason = .outOfRange := by
  rcases parseTokens_cases toks with ⟨hfew, _⟩ | ⟨_, k, c, _, rfl | rfl, hparse⟩ | ⟨_, _, hparse⟩
  · omega
  · exact .inr (.inl (congrArg ParseResult.reason hparse))
  · exact .inr (.inr (congrArg ParseResult.reason hparse))
  · exact .inl (congrArg ParseResult.reason hparse)

/-- Every parse has an outcome: NOT_RUN is none (10_state.md R33). -/
theorem parse_reason_ne_notRun (rx : List Byte) (drop : Bool) : (parse rx drop).reason ≠ .notRun := by
  rcases parse_cases rx drop with ⟨hparse, _⟩ | ⟨u, _, hparse⟩ <;> rw [hparse]
  · exact nofun
  · rcases Nat.lt_or_ge (split u).length 13 with hfew | hcount
    · rw [parseTokens_of_few hfew]
      exact nofun
    · rcases parseTokens_reason hcount with h | h | h <;> rw [h] <;> exact nofun

end Sys2Proof.Machine
end

section
/-!
PARSE (43_parser.md R162): what it leaves in the PRES fields and the field registers, by the parse of the reply.
-/

namespace Sys2Proof.Machine

theorem exec_parse (s : State) : exec .parse s = .next (s.setParse (parse s.rx s.drop)) := rfl

theorem fvals_record {r : ParseResult} (h : r.valid = true) (k : Fin 10) :
    r.fvals[k] = BitVec.ofInt 32 (r.fields[k]).1 := by
  rw [ParseResult.fvals, if_pos h]
  exact Vector.getElem_ofFn ..

theorem fscls_record {r : ParseResult} (h : r.valid = true) (k : Fin 10) :
    r.fscls[k] = BitVec.ofNat 4 (r.fields[k]).2 := by
  rw [ParseResult.fscls, if_pos h]
  exact Vector.getElem_ofFn ..

/-- An EMPTY zeroes the field registers. -/
theorem fields_empty {r : ParseResult} (h : r.valid = false) (k : Fin 10) : r.fvals[k] = 0 ∧ r.fscls[k] = 0 := by
  have hne : ¬ r.valid = true := Bool.not_eq_true _ ▸ h
  rw [ParseResult.fvals, ParseResult.fscls, if_neg hne, if_neg hne]
  exact ⟨Vector.getElem_replicate _, Vector.getElem_replicate _⟩

theorem parse_nil (drop : Bool) : parse [] drop = emptyResult .noStart 0 0 := rfl

/-- The parse of the reply of 95_test_vectors.md W4: thirteen tokens, all ASCII, every field a number. -/
theorem parse_exampleReply (drop : Bool) :
    parse exampleReply drop =
      { valid := true, reason := .ok, fidx := 0, ntok := 13,
        fields := #v[(2301, 1), (500, 1), (2300, 1), (500, 1), (500, 0), (400, 0), (512, 1), (80, 0), (0, 0), (120, 0)] } := by
  cases drop <;> decide

theorem memRead_pres (s : State) : memRead 0x024 s = s.presWord := rfl

/-- Settles O40: PARSE is `setParse` of the parse, whose reason is never NOT_RUN. -/
theorem parseWritesResultAndFields : Obligations.ParseWritesResultAndFields := by
  have code {s : State} {r : Reason} (h : (parse s.rx s.drop).reason = r) :
      (s.setParse (parse s.rx s.drop)).reason = r.code := congrArg Reason.code h
  refine ⟨rfl, fun s => ⟨_, exec_parse s, rfl, rfl, rfl, rfl, code, code, code, code, code, fun hcode => ?_,
    fun hvalid k => ⟨fvals_record hvalid k, fscls_record hvalid k⟩, fields_empty, fun hempty => ?_, fun hreply => ?_⟩⟩
  · exact parse_reason_ne_notRun s.rx s.drop (reason_code_injective _ .notRun hcode)
  · rw [hempty, parse_nil]
    exact ⟨rfl, rfl⟩
  · rw [hreply, parse_exampleReply, memRead_pres, State.presWord, State.setParse_ntok, State.setParse_fidx,
      State.setParse_reason, State.setParse_valid]
    exact ⟨by decide, rfl, rfl⟩

/-- PARSE of a text without its `(`. -/
theorem exec_parse_not_opening {s : State} (h : ∀ u, strip (decodeText s.rx s.drop) ≠ chrOpen :: u) :
    exec .parse s = .next (s.setParse (emptyResult .noStart 0 0)) := by
  rw [exec_parse, parse_of_not_opening h]

/-- Settles O44: a space, a tab or REPL is neither stripped nor the `(`, so it stays first in the stripped text. -/
theorem textWithoutOpeningIsNoStart : Obligations.TextWithoutOpeningIsNoStart := by
  refine fun s => ⟨fun hopen => ⟨_, exec_parse_not_opening hopen, rfl, rfl, rfl, rfl⟩,
    fun before after c hc hbefore htext => ?_⟩
  have hkept : isStripped c = false ∧ c ≠ chrOpen := by
    rcases hc with rfl | rfl | rfl <;> decide
  obtain ⟨hstrip, hopen⟩ := hkept
  obtain ⟨u, hu⟩ := strip_of_first_kept (after := after) hbefore hstrip
  have hstart : ∀ v, strip (decodeText s.rx s.drop) ≠ chrOpen :: v := fun v hv => by
    rw [htext, hu, List.cons.injEq] at hv
    exact hopen hv.1
  exact ⟨_, exec_parse_not_opening hstart, rfl, rfl⟩

/-- Settles O46: by the token count; a field reads its own token, so tokens no field takes decide nothing. -/
theorem onlySurfacedTokensAreExamined : Obligations.OnlySurfacedTokensAreExamined := by
  refine ⟨fun s u hopen => ⟨_, exec_parse s, fun hfew => ?_, fun hcount => ?_⟩,
    fun a b ha hb hsame => parseTokens_congr ha hb (convField_congr hsame)⟩
  · rw [parse_of_opening hopen, parseTokens_of_few hfew]
    exact ⟨rfl, rfl, rfl, rfl, fields_empty rfl⟩
  · rw [State.setParse_reason, parse_of_opening hopen]
    rcases parseTokens_reason hcount with h | h | h <;> rw [h] <;> decide

end Sys2Proof.Machine
end

section
/-!
Tokens as the digit strings they are made of (43_parser.md R172): the digits, the sign, the exact value.
-/

namespace Sys2Proof.Machine

theorem digitValue_digitChr (d : Fin 10) : digitValue (digitChr d) = some d.val := by
  revert d
  decide

/-- Only the ten digit characters have a value. -/
theorem eq_digitChr_of_digitValue {c : Chr} {n : Nat} (h : digitValue c = some n) : ∃ d : Fin 10, c = digitChr d := by
  have hall : ∀ code : BitVec 7, digitValue (.ascii code) ≠ none → ∃ d : Fin 10, Chr.ascii code = digitChr d := by
    decide
  cases c with
  | ascii code => exact hall code (h ▸ nofun)
  | repl => exact absurd h nofun

theorem digitChr_ne (d : Fin 10) : digitChr d ≠ chrMinus ∧ digitChr d ≠ chrPlus ∧ digitChr d ≠ chrDot := by
  revert d
  decide

theorem digits_map_digitChr (ds : List (Fin 10)) : digits (ds.map digitChr) = some (ds.map Fin.val) := by
  induction ds with
  | nil => rfl
  | cons d ds ih => rw [List.map_cons, digits, digitValue_digitChr, ih, List.map_cons]

/-- Nothing but digit characters reads as digits. -/
theorem eq_map_digitChr_of_digits {cs : List Chr} {ns : List Nat} (h : digits cs = some ns) :
    ∃ ds : List (Fin 10), cs = ds.map digitChr ∧ ns = ds.map Fin.val := by
  have hchars : ∃ ds : List (Fin 10), cs = ds.map digitChr := by
    induction cs generalizing ns with
    | nil => exact ⟨[], rfl⟩
    | cons c cs ih =>
      rw [digits] at h
      split at h
      next n ms hc hcs =>
        obtain ⟨d, rfl⟩ := eq_digitChr_of_digitValue hc
        obtain ⟨ds, rfl⟩ := ih hcs
        exact ⟨d :: ds, rfl⟩
      next => exact absurd h nofun
  obtain ⟨ds, rfl⟩ := hchars
  exact ⟨ds, rfl, Option.some.inj (h.symm.trans (digits_map_digitChr ds))⟩

theorem decimalSum_cons (d : Fin 10) (ds : List (Fin 10)) :
    decimalSum (d :: ds) = (d.val : Int) * 10 ^ ds.length + decimalSum ds := by
  unfold decimalSum
  refine (Fin.sum_univ_succ _).trans (congrArg (_ + ·) (Finset.sum_congr rfl fun i _ => ?_))
  have hexp : (d :: ds).length - 1 - i.succ.val = ds.length - 1 - i.val := by
    rw [List.length_cons, Fin.val_succ]
    omega
  rw [hexp]
  rfl

theorem decimal_map_val (ds : List (Fin 10)) : (decimal (ds.map Fin.val) : Int) = decimalSum ds := by
  induction ds with
  | nil => rfl
  | cons d ds ih =>
    rw [List.map_cons, decimal, List.length_map, decimalSum_cons, ← ih]
    push_cast
    rfl

/-- The range check on the value of digits with their sign (43_parser.md R172, R173). -/
theorem ranged_signed (sign : List Chr) (ds : List (Fin 10)) (scl : Nat) :
    ranged (signed (decide (sign = [chrMinus])) (decimal (ds.map Fin.val))) scl = significand sign ds scl := by
  rw [signed, decimal_map_val]
  by_cases hminus : sign = [chrMinus]
  · rw [if_pos (decide_eq_true hminus), significand, if_pos hminus]
    rfl
  · rw [if_neg (by simpa using hminus), significand, if_neg hminus]
    rfl

/-- What follows a sign does not begin with one. -/
def Unsigned (cs : List Chr) : Prop := ∀ c, cs.head? = some c → c ≠ chrMinus ∧ c ≠ chrPlus

theorem splitSign_append {sign cs : List Chr} (hsign : isSign sign) (hcs : Unsigned cs) :
    splitSign (sign ++ cs) = (decide (sign = [chrMinus]), cs) := by
  rcases hsign with rfl | rfl | rfl
  · cases cs with
    | nil => rfl
    | cons c cs =>
      obtain ⟨hminus, hplus⟩ := hcs c rfl
      rw [List.nil_append, splitSign, if_neg hminus, if_neg hplus]
      rfl
  · rfl
  · rfl

/-- Every token is a sign, or none, and what `splitSign` leaves of it. -/
theorem exists_sign (tok : List Chr) : ∃ sign, isSign sign ∧ tok = sign ++ (splitSign tok).2 := by
  fun_cases splitSign tok
  case case1 => exact ⟨[], .inl rfl, rfl⟩
  case case2 => exact ⟨[chrMinus], .inr (.inr rfl), rfl⟩
  case case3 => exact ⟨[chrPlus], .inr (.inl rfl), rfl⟩
  case case4 => exact ⟨[], .inl rfl, rfl⟩

theorem unsigned_map_digitChr (ds : List (Fin 10)) : Unsigned (ds.map digitChr) := by
  intro c hc
  rw [List.head?_map, Option.map_eq_some_iff] at hc
  obtain ⟨d, _, rfl⟩ := hc
  obtain ⟨hminus, hplus, _⟩ := digitChr_ne d
  exact ⟨hminus, hplus⟩

theorem convInt_of_digits {tok : List Chr} {ns : List Nat} (h : digits (splitSign tok).2 = some ns) (hne : ns ≠ []) :
    convInt tok = ranged (signed (splitSign tok).1 (decimal ns)) 0 := by
  obtain ⟨n, ns, rfl⟩ := List.exists_cons_of_ne_nil hne
  rw [convInt, h]

/-- The tokens the INT grammar refuses (43_parser.md R172). -/
theorem convInt_notNumeric {tok : List Chr} (h : ∀ ns, digits (splitSign tok).2 = some ns → ns = []) :
    convInt tok = .fail .notNumeric := by
  rw [convInt]
  cases hdigits : digits (splitSign tok).2 with
  | none => rfl
  | some ns =>
    obtain rfl := h ns hdigits
    rfl

/-- Settles O47: digits read back as themselves, and a token that reads as digits after its sign is one of the grammar. -/
theorem integerTokenConversion : Obligations.IntegerTokenConversion := by
  refine ⟨fun sign ds hsign hds => ?_, fun tok hother => convInt_notNumeric fun ns hdigits => ?_⟩
  · have hsplit := splitSign_append hsign (unsigned_map_digitChr ds)
    have hread : digits (splitSign (sign ++ ds.map digitChr)).2 = some (ds.map Fin.val) := by
      rw [hsplit, digits_map_digitChr]
    rw [convInt_of_digits hread (List.map_eq_nil_iff.not.mpr hds), hsplit, ranged_signed]
  · obtain ⟨sign, hsign, htok⟩ := exists_sign tok
    obtain ⟨ds, hds, rfl⟩ := eq_map_digitChr_of_digits hdigits
    by_contra hne
    rw [hds] at htok
    exact hother sign ds hsign (mt (congrArg (List.map Fin.val)) hne) htok

end Sys2Proof.Machine
end

section
/-!
Float tokens (43_parser.md R173): the characters before and after the `.`, and the grammar.
-/

namespace Sys2Proof.Machine

theorem splitDot_no_dot {cs : List Chr} (h : chrDot ∉ cs) : splitDot cs = (cs, none) := by
  induction cs with
  | nil => rfl
  | cons c cs ih =>
    obtain ⟨hc, hcs⟩ := not_or.mp (List.mem_cons.not.mp h)
    rw [splitDot, if_neg (Ne.symm hc), ih hcs]

theorem splitDot_dot {whole : List Chr} (frac : List Chr) (h : chrDot ∉ whole) :
    splitDot (whole ++ chrDot :: frac) = (whole, some frac) := by
  induction whole with
  | nil => rfl
  | cons c whole ih =>
    obtain ⟨hc, hwhole⟩ := not_or.mp (List.mem_cons.not.mp h)
    rw [List.cons_append, splitDot, if_neg (Ne.symm hc), ih hwhole]

/-- `splitDot` drops the `.` alone. -/
theorem splitDot_join (cs : List Chr) :
    cs = (splitDot cs).1 ++ ((splitDot cs).2.map (chrDot :: ·)).getD [] := by
  induction cs with
  | nil => rfl
  | cons c cs ih =>
    by_cases hc : c = chrDot
    · rw [splitDot, if_pos hc, hc]
      rfl
    · rw [splitDot, if_neg hc, List.cons_append, ← ih]

theorem dot_not_mem_map_digitChr (ds : List (Fin 10)) : chrDot ∉ ds.map digitChr := by
  rw [List.mem_map]
  rintro ⟨d, _, hd⟩
  obtain ⟨_, _, hdot⟩ := digitChr_ne d
  exact hdot hd

theorem splitDot_floatBody (whole : List (Fin 10)) (frac : Option (List (Fin 10))) :
    splitDot (floatBody whole frac) = (whole.map digitChr, frac.map (List.map digitChr)) := by
  cases frac with
  | none => exact splitDot_no_dot (dot_not_mem_map_digitChr whole)
  | some frac => exact splitDot_dot _ (dot_not_mem_map_digitChr whole)

theorem floatParts_of_digits {cs : List Chr} {whole frac : List Nat} (hwhole : digits (splitDot cs).1 = some whole)
    (hfrac : digits ((splitDot cs).2.getD []) = some frac) (hne : ¬ (whole = [] ∧ frac = [])) :
    floatParts cs = some (whole, frac) := by
  rw [floatParts, hwhole, hfrac]
  exact if_neg hne

/-- What the FLOAT grammar's check lets through. -/
theorem digits_of_floatParts {cs : List Chr} {whole frac : List Nat} (h : floatParts cs = some (whole, frac)) :
    digits (splitDot cs).1 = some whole ∧ digits ((splitDot cs).2.getD []) = some frac ∧
      ¬ (whole = [] ∧ frac = []) := by
  rw [floatParts] at h
  split at h
  next w f hw hf =>
    split_ifs at h with hempty
    cases h
    exact ⟨hw, hf, hempty⟩
  next => exact absurd h nofun

theorem isFloatBody_iff (whole : List (Fin 10)) (frac : Option (List (Fin 10))) :
    isFloatBody whole frac ↔ ¬ (whole.map Fin.val = [] ∧ (frac.getD []).map Fin.val = []) := by
  rw [List.map_eq_nil_iff, List.map_eq_nil_iff, not_and_or]

theorem floatParts_floatBody {whole : List (Fin 10)} {frac : Option (List (Fin 10))} (h : isFloatBody whole frac) :
    floatParts (floatBody whole frac) = some (whole.map Fin.val, (frac.getD []).map Fin.val) := by
  refine floatParts_of_digits ?_ ?_ ((isFloatBody_iff whole frac).mp h) <;> rw [splitDot_floatBody]
  · exact digits_map_digitChr whole
  · cases frac with
    | none => rfl
    | some frac => exact digits_map_digitChr frac

theorem exists_floatBody {cs : List Chr} {whole frac : List Nat} (h : floatParts cs = some (whole, frac)) :
    ∃ (w : List (Fin 10)) (f : Option (List (Fin 10))), isFloatBody w f ∧ cs = floatBody w f := by
  obtain ⟨hwhole, hfrac, hne⟩ := digits_of_floatParts h
  obtain ⟨w, hw, rfl⟩ := eq_map_digitChr_of_digits hwhole
  obtain ⟨f, hf, rfl⟩ := eq_map_digitChr_of_digits hfrac
  have hjoin := splitDot_join cs
  rw [hw] at hjoin
  cases hdot : (splitDot cs).2 with
  | none =>
    rw [hdot] at hf hjoin
    obtain rfl := List.map_eq_nil_iff.mp hf.symm
    refine ⟨w, none, (isFloatBody_iff w none).mpr hne, hjoin.trans (List.append_nil _)⟩
  | some rest =>
    rw [hdot] at hf hjoin
    obtain rfl : rest = f.map digitChr := hf
    exact ⟨w, some f, (isFloatBody_iff w (some f)).mpr hne, hjoin⟩

theorem unsigned_floatBody (whole : List (Fin 10)) (frac : Option (List (Fin 10))) : Unsigned (floatBody whole frac) := by
  cases frac with
  | none => exact unsigned_map_digitChr whole
  | some frac =>
    cases whole with
    | nil =>
      rintro c ⟨⟩
      decide
    | cons d whole => exact fun c hc => unsigned_map_digitChr (d :: whole) c hc

theorem convFloat_of_parts {tok : List Chr} {whole frac : List Nat}
    (h : floatParts (splitSign tok).2 = some (whole, frac)) :
    convFloat tok =
      if frac.length > 9 then .fail .outOfRange
      else ranged (signed (splitSign tok).1 (decimal (whole ++ frac))) frac.length := by
  rw [convFloat, h]

theorem convFloat_notNumeric {tok : List Chr} (h : floatParts (splitSign tok).2 = none) :
    convFloat tok = .fail .notNumeric := by
  rw [convFloat, h]

/-- Settles O48: a body of the grammar reads back as its digits, and what the check lets through is such a body. -/
theorem floatTokenConversion : Obligations.FloatTokenConversion := by
  refine ⟨fun sign whole frac hsign hbody => ?_, fun tok hother => convFloat_notNumeric ?_⟩
  · have hsplit := splitSign_append hsign (unsigned_floatBody whole frac)
    have hparts : floatParts (splitSign (sign ++ floatBody whole frac)).2 =
        some (whole.map Fin.val, (frac.getD []).map Fin.val) := by
      rw [hsplit, floatParts_floatBody hbody]
    rw [convFloat_of_parts hparts, hsplit, List.length_map, ← List.map_append, ranged_signed]
  · rw [Option.eq_none_iff_forall_ne_some]
    rintro ⟨w, f⟩ hparts
    obtain ⟨sign, hsign, htok⟩ := exists_sign tok
    obtain ⟨whole, frac, hbody, hcs⟩ := exists_floatBody hparts
    rw [hcs] at htok
    exact hother sign whole frac hsign hbody htok

end Sys2Proof.Machine
end

section
/-!
What PARSE reads (43_parser.md R176), and the accesses that leave it alone: no RX.CLR, RX.PUSH or SRESET, and no write of
CTRL.
-/

namespace Sys2Proof.Machine

/-- Two states hold the same reply under the same policy, with the reset input at the same level. -/
structure State.SameReply (s t : State) : Prop where
  rx : t.rx = s.rx
  drop : t.drop = s.drop
  line : t.resetLine = s.resetLine

theorem sameReply_refl (s : State) : s.SameReply s := ⟨rfl, rfl, rfl⟩

theorem State.SameReply.trans {s t u : State} (hst : s.SameReply t) (htu : t.SameReply u) : s.SameReply u :=
  ⟨htu.rx.trans hst.rx, htu.drop.trans hst.drop, htu.line.trans hst.line⟩

theorem recordError_sameReply (s : State) (c : Cause) : s.SameReply (s.recordError c) :=
  ⟨State.recordError_rx s c, State.recordError_drop s c, State.recordError_resetLine s c⟩

theorem setParse_sameReply (s : State) (r : ParseResult) : s.SameReply (s.setParse r) := ⟨rfl, rfl, rfl⟩

theorem answer_sameReply (s : State) (r : Response) : s.SameReply (s.answer r) := ⟨rfl, rfl, rfl⟩

theorem setInbox_sameReply (s : State) (l : List Input) : s.SameReply (s.setInbox l) := ⟨rfl, rfl, rfl⟩

/-- Only RX.CLR, RX.PUSH and SRESET touch the reply or the policy. -/
theorem exec_sameReply (i : Instr) (s : State) (hclr : i ≠ .rxClr) (hsreset : i ≠ .sreset) (hpush : ∀ b, i ≠ .rxPush b) :
    ∃ t, exec i s = .next t ∧ s.SameReply t := by
  cases i with
  | nop => exact ⟨_, rfl, sameReply_refl s⟩
  | errclr => exact ⟨_, rfl, ⟨rfl, rfl, rfl⟩⟩
  | sreset => exact absurd rfl hsreset
  | crcClr => exact ⟨_, rfl, ⟨rfl, rfl, rfl⟩⟩
  | crcByte b => exact ⟨_, rfl, ⟨rfl, rfl, rfl⟩⟩
  | frmClr => exact ⟨_, rfl, ⟨rfl, rfl, rfl⟩⟩
  | frmPush b =>
    rcases execFrmPush_cases b s with ⟨_, h⟩ | ⟨_, _, h⟩ | ⟨_, _, h⟩
    · exact ⟨_, h, recordError_sameReply s _⟩
    · exact ⟨_, h, recordError_sameReply s _⟩
    · exact ⟨_, h, ⟨rfl, rfl, rfl⟩⟩
  | frmBuild => exact ⟨_, rfl, ⟨rfl, rfl, rfl⟩⟩
  | rxClr => exact absurd rfl hclr
  | rxPush b => exact absurd rfl (hpush b)
  | parse => exact ⟨_, exec_parse s, setParse_sameReply s _⟩

/-- A command word that is none of RX.CLR, SRESET and RX.PUSH. -/
def wordKeepsReply (v : Word) : Prop :=
  decode v ≠ .instr .rxClr ∧ decode v ≠ .instr .sreset ∧ ∀ b, decode v ≠ .instr (.rxPush b)

theorem execute_sameReply {v : Word} (s : State) (hv : wordKeepsReply v) :
    ∃ t, execute v s = .next t ∧ s.SameReply t := by
  obtain ⟨hclr, hsreset, hpush⟩ := hv
  cases hdecode : decode v with
  | instr i =>
    rw [hdecode] at hclr hsreset hpush
    rw [execute_instr v i s hdecode]
    exact exec_sameReply i s (mt (congrArg _) hclr) (mt (congrArg _) hsreset) fun b => mt (congrArg _) (hpush b)
  | error c => exact ⟨_, execute_error v c s hdecode, recordError_sameReply s c⟩

/-- An access that is no write of CTRL and none of the three commands. -/
def accessKeepsReply (a : Access) : Prop :=
  ∀ v, a.op = .write v → a.off ≠ 0x008 ∧ (a.off = 0x010 → wordKeepsReply v)

theorem memWrite_sameReply {off : Offset} {v : Word} (s : State) (haligned : aligned off) (hctrl : off ≠ 0x008)
    (hcmd : off = 0x010 → wordKeepsReply v) : ∃ t, memWrite off v s = .next t ∧ s.SameReply t := by
  rcases memWrite_cases off haligned v s with ⟨hoff, _⟩ | ⟨hoff, h⟩ | ⟨_, _, h⟩
  · exact absurd hoff hctrl
  · rw [h]
    exact execute_sameReply s (hcmd hoff)
  · exact ⟨s, h, sameReply_refl s⟩

theorem runAccess_sameReply {a : Access} (s : State) (ha : accessKeepsReply a) :
    ∃ t, runAccess a s = .next t ∧ s.SameReply t := by
  rcases runAccess_cases a s with ⟨_, h⟩ | ⟨_, _, h⟩ | ⟨hwf, v, hop, h⟩
  · exact ⟨_, h, answer_sameReply s _⟩
  · exact ⟨_, h, answer_sameReply s _⟩
  · obtain ⟨hctrl, hcmd⟩ := ha v hop
    have haligned : aligned a.off := by
      by_contra hbad
      rw [(wellFormed_eq_false_iff a).mpr (.inr hbad)] at hwf
      exact absurd hwf Bool.false_ne_true
    obtain ⟨t, hwrite, hsame⟩ := memWrite_sameReply s haligned hctrl hcmd
    rw [h, hwrite, mapNext_next]
    exact ⟨_, rfl, hsame.trans (answer_sameReply t _)⟩

theorem step_sameReply {s : State} {a : Access} {rest : List Input} (hline : s.resetLine = false)
    (hinbox : s.inbox = .access a :: rest) (ha : accessKeepsReply a) :
    ∃ t, step s = .next t ∧ s.SameReply t ∧ t.inbox = rest := by
  obtain ⟨t, hrun, hsame⟩ := runAccess_sameReply s ha
  refine ⟨t.setInbox rest, ?_, hsame.trans (setInbox_sameReply t rest), State.setInbox_inbox t rest⟩
  rw [step_cons s _ rest hinbox, takeInput_access a s hline, hrun, mapNext_next]

theorem run_sameReply {as : List Access} {rest : List Input} {s : State} (hline : s.resetLine = false)
    (hinbox : s.inbox = as.map Input.access ++ rest) (has : ∀ a ∈ as, accessKeepsReply a) :
    ∃ t, run as.length s = .next t ∧ s.SameReply t ∧ t.inbox = rest := by
  induction as generalizing s with
  | nil => exact ⟨s, rfl, sameReply_refl s, hinbox⟩
  | cons a as ih =>
    obtain ⟨ha, has⟩ := List.forall_mem_cons.mp has
    obtain ⟨t, hstep, hsame, hrest⟩ := step_sameReply hline hinbox ha
    obtain ⟨u, hrun, hsame', hdone⟩ := ih (hsame.line.trans hline) hrest has
    exact ⟨u, (run_succ _ _ _ hstep).trans hrun, hsame.trans hsame', hdone⟩

/-- One step, on a write of the PARSE word. -/
theorem run_parse {s : State} {rest : List Input} (hline : s.resetLine = false)
    (hinbox : s.inbox = .access (cmdWrite 0x32000000) :: rest) :
    run 1 s = .next (((s.setParse (parse s.rx s.drop)).answer ⟨.ok, none⟩).setInbox rest) := by
  rw [run_succ 0 s _ (step_command_next (i := .parse) hline hinbox (exec_parse s)), run_zero]

/-- Two PARSEs with such accesses between them: the second finds the reply and the policy of the first. -/
theorem run_parse_between {s : State} {between : List Access} {rest : List Input} (hline : s.resetLine = false)
    (hinbox : s.inbox =
      .access (cmdWrite 0x32000000) :: (between.map Input.access ++ .access (cmdWrite 0x32000000) :: rest))
    (hbetween : ∀ a ∈ between, accessKeepsReply a) :
    ∃ u, s.SameReply u ∧
      run (between.length + 2) s = .next (((u.setParse (parse u.rx u.drop)).answer ⟨.ok, none⟩).setInbox rest) := by
  have hfirst := run_parse hline hinbox
  have hst := ((setParse_sameReply s (parse s.rx s.drop)).trans (answer_sameReply _ ⟨.ok, none⟩)).trans
    (setInbox_sameReply _ (between.map Input.access ++ .access (cmdWrite 0x32000000) :: rest))
  obtain ⟨u, hrun, htu, hlast⟩ := run_sameReply (hst.line.trans hline) (State.setInbox_inbox _ _) hbetween
  have hsu := hst.trans htu
  refine ⟨u, hsu, ?_⟩
  calc run (between.length + 2) s
      = run (1 + (between.length + 1)) s := by rw [Nat.add_comm 1]
    _ = run (between.length + 1) _ := run_add _ hfirst
    _ = run 1 u := run_add 1 hrun
    _ = _ := run_parse (hsu.line.trans hline) hlast

/-- Settles O50: PARSE is a function of the reply and the policy, and the accesses between the two keep both. -/
theorem parseReadsOnlyReplyAndPolicy : Obligations.ParseReadsOnlyReplyAndPolicy := by
  refine ⟨fun s q hrx hdrop => ⟨_, _, exec_parse s, exec_parse q, ?_⟩, fun s between rest hline hinbox hbetween => ?_⟩
  · have hparse : parse s.rx s.drop = parse q.rx q.drop := by rw [hrx, hdrop]
    rw [hparse]
    exact ⟨rfl, rfl, rfl, rfl, rfl, rfl, rfl⟩
  · rw [List.cons_append] at hinbox
    obtain ⟨u, hsame, hsecond⟩ := run_parse_between hline hinbox hbetween
    refine ⟨_, _, run_parse hline hinbox, hsecond, ?_⟩
    rw [hsame.rx, hsame.drop]
    exact ⟨rfl, rfl, rfl, rfl, rfl, rfl⟩

end Sys2Proof.Machine
end

section
/-!
Error entry (60_exceptions.md R202, R205): the cause in STATUS, and what the errors after the first do.
-/

namespace Sys2Proof.Machine

/-- STATUS.ECAUSE stands at bits 7 to 4 (10_state.md R26). -/
theorem statusWord_ecause (s : State) : s.statusWord.extractLsb' 4 4 = s.ecause := by
  have flags (b : Bool) : (bit b <<< 10).extractLsb' 4 4 = 0#4 ∧ (bit b <<< 9).extractLsb' 4 4 = 0#4 ∧
      (bit b <<< 8).extractLsb' 4 4 = 0#4 ∧ (bit b <<< 1).extractLsb' 4 4 = 0#4 ∧
      (bit b).extractLsb' 4 4 = 0#4 := by
    cases b <;> decide
  have cause : ∀ k : BitVec 4, ((k.setWidth 32 : Word) <<< 4).extractLsb' 4 4 = k := by decide
  simp only [State.statusWord, BitVec.extractLsb'_or, flags, cause, BitVec.zero_or, BitVec.or_zero]

theorem recordError_first {s : State} (c : Cause) (herr : s.err = false) :
    s.recordError c = { s with err := true, ecause := c.code } :=
  if_pos herr

theorem recordError_further {s : State} (c : Cause) (herr : s.err = true) : s.recordError c = { s with eovf := true } :=
  if_neg (by simp [herr])

/-- The first error shows its cause's code in STATUS (60_exceptions.md R200). -/
theorem raise_status_ecause {s : State} (c : Cause) (herr : s.err = false) :
    ∃ t, raise c s = .next t ∧ (memRead 0x00C t).extractLsb' 4 4 = c.code := by
  refine ⟨s.recordError c, raise_eq c s, ?_⟩
  rw [memRead, regAt_status, recordError_first c herr]
  exact statusWord_ecause _

/-- Once EOVF is set, the record no longer changes (60_exceptions.md R205). -/
theorem foldl_recordError_overflowed {s : State} (cs : List Cause) (herr : s.err = true) (heovf : s.eovf = true) :
    cs.foldl State.recordError s = s := by
  induction cs with
  | nil => rfl
  | cons c cs ih =>
    have hsame : s.recordError c = s := by rw [recordError_further c herr, ← heovf]
    rw [List.foldl_cons, hsame, ih]

/-- Any number of errors on top of a recorded one sets EOVF and nothing else. -/
theorem foldl_recordError_further {s : State} {cs : List Cause} (herr : s.err = true) (hcs : cs ≠ []) :
    cs.foldl State.recordError s = { s with eovf := true } := by
  cases cs with
  | nil => exact absurd rfl hcs
  | cons c cs =>
    rw [List.foldl_cons, recordError_further c herr]
    exact foldl_recordError_overflowed cs herr rfl

/-- Settles O52: the first error by its record, the second by EOVF, and those after it change nothing. -/
theorem errorEntryRecordsFirstCause : Obligations.ErrorEntryRecordsFirstCause := by
  refine ⟨fun s herr => ?_, fun s c => ⟨fun herr => ?_, fun herr => ?_, fun cs herr hcs => ?_⟩⟩
  · exact ⟨raise_status_ecause .illegalOpcode herr, raise_status_ecause .reservedNonzero herr,
      raise_status_ecause .nonAscii herr, raise_status_ecause .payloadFull herr, raise_status_ecause .rxFull herr⟩
  · rw [raise_eq, recordError_first c herr]
  · rw [raise_eq, recordError_further c herr]
  · rw [foldl_recordError_further (State.recordError_err s c) hcs, recordError_first c herr]

end Sys2Proof.Machine
end

section
/-!
What clears the error record (60_exceptions.md R204): ERRCLR, SRESET and the hardware reset, and nothing else.
-/

namespace Sys2Proof

/-- A word that decodes to a command is the command's own word (30_encoding.md R80, R86). -/
theorem eq_encode_of_decode {w : Word} {i : Instr} (hdecode : decode w = .instr i) : w = encode i := by
  obtain ⟨hcommand, hrsv, hoperand⟩ := (decode_eq_instr_iff w i).mp hdecode
  obtain ⟨hopc, himm, hspare⟩ := commandOf_fields _ _ i hcommand
  have himm8 : i.imm8 = immField w := by
    cases h : i.hasOperand with
    | true => exact himm h
    | false =>
      rw [h] at hoperand
      exact (hspare h).trans (hoperand.resolve_left Bool.false_ne_true).symm
  rw [encode, hopc, himm8]
  exact (hrsv ▸ word_of_fields w).symm

namespace Machine

/-- No part of the error record that is set in `s` is clear in `t`. -/
structure State.KeepsErrors (s t : State) : Prop where
  err : s.err = true → t.err = true
  eovf : s.eovf = true → t.eovf = true
  ecause : s.ecause ≠ 0 → t.ecause ≠ 0

theorem keepsErrors_refl (s : State) : s.KeepsErrors s := ⟨id, id, id⟩

theorem answer_keepsErrors {s t : State} (r : Response) (h : s.KeepsErrors t) : s.KeepsErrors (t.answer r) :=
  ⟨h.err, h.eovf, h.ecause⟩

theorem State.KeepsErrors.not_cleared {s t : State} (h : s.KeepsErrors t) :
    ¬ ((s.err = true ∧ t.err = false) ∨ (s.eovf = true ∧ t.eovf = false) ∨ (s.ecause ≠ 0 ∧ t.ecause = 0)) := by
  rintro (⟨hs, ht⟩ | ⟨hs, ht⟩ | ⟨hs, ht⟩)
  · exact Bool.false_ne_true (ht.symm.trans (h.err hs))
  · exact Bool.false_ne_true (ht.symm.trans (h.eovf hs))
  · exact h.ecause hs ht

theorem cause_code_ne_zero (c : Cause) : c.code ≠ 0 := by
  cases c <;> decide

/-- Error entry sets parts of the record and clears none: the cause it writes is not 0. -/
theorem recordError_keepsErrors (s : State) (c : Cause) : s.KeepsErrors (s.recordError c) := by
  rcases recordError_cases s c with ⟨_, h⟩ | ⟨_, h⟩ <;> rw [h]
  · exact ⟨fun _ => rfl, id, fun _ => cause_code_ne_zero c⟩
  · exact ⟨id, fun _ => rfl, id⟩

/-- Only ERRCLR and SRESET clear a part of the error record. -/
theorem exec_keepsErrors (i : Instr) (s : State) (herrclr : i ≠ .errclr) (hsreset : i ≠ .sreset) :
    ∃ t, exec i s = .next t ∧ s.KeepsErrors t := by
  cases i with
  | nop => exact ⟨_, exec_nop s, keepsErrors_refl s⟩
  | errclr => exact absurd rfl herrclr
  | sreset => exact absurd rfl hsreset
  | crcClr => exact ⟨_, exec_crcClr s, ⟨id, id, id⟩⟩
  | crcByte b => exact ⟨_, exec_crcByte b s, ⟨id, id, id⟩⟩
  | frmClr => exact ⟨_, exec_frmClr s, ⟨id, id, id⟩⟩
  | frmPush b =>
    rcases execFrmPush_cases b s with ⟨_, h⟩ | ⟨_, _, h⟩ | ⟨_, _, h⟩
    · exact ⟨_, h, recordError_keepsErrors s _⟩
    · exact ⟨_, h, recordError_keepsErrors s _⟩
    · exact ⟨_, h, ⟨id, id, id⟩⟩
  | frmBuild => exact ⟨_, exec_frmBuild s, ⟨id, id, id⟩⟩
  | rxClr => exact ⟨_, exec_rxClr s, ⟨id, id, id⟩⟩
  | rxPush b =>
    rcases execRxPush_cases b s with ⟨_, h⟩ | ⟨_, h⟩
    · exact ⟨_, h, recordError_keepsErrors s _⟩
    · exact ⟨_, h, ⟨id, id, id⟩⟩
  | parse => exact ⟨_, exec_parse s, ⟨id, id, id⟩⟩

/-- Of the command words only those of ERRCLR and SRESET clear a part; a malformed word only records an error. -/
theorem execute_keepsErrors {w : Word} (s : State) (herrclr : w ≠ 0x01000000) (hsreset : w ≠ 0x02000000) :
    ∃ t, execute w s = .next t ∧ s.KeepsErrors t := by
  cases hdecode : decode w with
  | instr i =>
    have hw : w = encode i := eq_encode_of_decode hdecode
    rw [execute_instr w i s hdecode]
    refine exec_keepsErrors i s ?_ ?_ <;> rintro rfl
    · exact herrclr hw
    · exact hsreset hw
  | error c => exact ⟨_, execute_error w c s hdecode, recordError_keepsErrors s c⟩

theorem wellFormed_eq_true_iff (a : Access) : a.wellFormed = true ↔ a.size = .four ∧ aligned a.off := by
  rw [Access.wellFormed, Bool.and_eq_true, beq_iff_eq, beq_iff_eq]

/-- A write that acts at CMD is the write of a command word. -/
theorem eq_cmdWrite {a : Access} {w : Word} (hop : a.op = .write w) (hoff : a.off = 0x010) (hsize : a.size = .four) :
    a = cmdWrite w := by
  cases a
  subst hop hoff hsize
  rfl

/-- Of the accesses only the writes of those two words to CMD clear a part (20_memory.md R62 to R64). -/
theorem runAccess_keepsErrors {a : Access} (s : State) (herrclr : a ≠ cmdWrite 0x01000000)
    (hsreset : a ≠ cmdWrite 0x02000000) : ∃ t, runAccess a s = .next t ∧ s.KeepsErrors t := by
  rcases runAccess_cases a s with ⟨_, h⟩ | ⟨_, _, h⟩ | ⟨hwf, w, hop, h⟩
  · exact ⟨_, h, answer_keepsErrors _ (keepsErrors_refl s)⟩
  · exact ⟨_, h, answer_keepsErrors _ (keepsErrors_refl s)⟩
  · obtain ⟨hsize, haligned⟩ := (wellFormed_eq_true_iff a).mp hwf
    have hwrite : ∃ t, memWrite a.off w s = .next t ∧ s.KeepsErrors t := by
      rcases memWrite_cases a.off haligned w s with ⟨_, h⟩ | ⟨hoff, h⟩ | ⟨_, _, h⟩
      · exact ⟨_, h, ⟨id, id, id⟩⟩
      · rw [h]
        rw [eq_cmdWrite hop hoff hsize] at herrclr hsreset
        exact execute_keepsErrors s (mt (congrArg cmdWrite) herrclr) (mt (congrArg cmdWrite) hsreset)
      · exact ⟨_, h, keepsErrors_refl s⟩
    obtain ⟨t, ht, hkeeps⟩ := hwrite
    rw [h, ht, mapNext_next]
    exact ⟨_, rfl, answer_keepsErrors _ hkeeps⟩

theorem turnAway_keepsErrors (a : Access) (s : State) : s.KeepsErrors (turnAway a s) := by
  rcases turnAway_cases a s with h | ⟨r, h⟩ <;> rw [h]
  · exact keepsErrors_refl s
  · exact answer_keepsErrors r (keepsErrors_refl s)

/-- An input either keeps what is set of the error record, or is one of the four that clear it. -/
theorem takeInput_keepsErrors_or {s t : State} {x : Input} (ht : takeInput x s = .next t) :
    s.KeepsErrors t ∨
      x = .resetAssert ∨ x = .powerUp ∨ x = .access (cmdWrite 0x01000000) ∨ x = .access (cmdWrite 0x02000000) := by
  rcases takeInput_cases x s with ⟨a, _, _, h⟩ | ⟨a, hx, _, h⟩ | ⟨hx, _⟩ | ⟨_, h⟩ | ⟨hx, _⟩
  · cases h.symm.trans ht
    exact .inl (turnAway_keepsErrors a s)
  · by_cases herrclr : a = cmdWrite 0x01000000
    · exact .inr (.inr (.inr (.inl (herrclr ▸ hx))))
    by_cases hsreset : a = cmdWrite 0x02000000
    · exact .inr (.inr (.inr (.inr (hsreset ▸ hx))))
    obtain ⟨u, hu, hkeeps⟩ := runAccess_keepsErrors s herrclr hsreset
    cases (h.trans hu).symm.trans ht
    exact .inl hkeeps
  · exact .inr (.inl hx)
  · cases h.symm.trans ht
    exact .inl ⟨id, id, id⟩
  · exact .inr (.inr (.inl hx))

theorem takeInput_cmdWrite {s t : State} {w : Word} (hline : s.resetLine = false) (h : execute w s = .next t) :
    takeInput (.access (cmdWrite w)) s = .next (t.answer ⟨.ok, none⟩) := by
  rw [takeInput_access _ s hline, runAccess_cmdWrite, h, mapNext_next]

theorem execute_sresetWord (s : State) : execute 0x02000000 s = .next s.resetElements := by
  have hdecode : decode 0x02000000 = .instr .sreset := by decide
  rw [execute_instr _ _ s hdecode, exec_sreset]

/-- Settles O54: each of the four ends in `clearError` or `resetElements`, and every other input keeps what is set. -/
theorem onlyErrclrAndResetsClearErrors : Obligations.OnlyErrclrAndResetsClearErrors := by
  constructor
  · rintro s x (rfl | rfl | ⟨hline, rfl | rfl⟩)
    · exact ⟨_, rfl, rfl, rfl, rfl⟩
    · exact ⟨_, rfl, rfl, rfl, rfl⟩
    · exact ⟨_, takeInput_cmdWrite hline (execute_errclrWord s), rfl, rfl, rfl⟩
    · exact ⟨_, takeInput_cmdWrite hline (execute_sresetWord s), rfl, rfl, rfl⟩
  · intro s t x ht hcleared
    exact (takeInput_keepsErrors_or ht).resolve_left fun hkeeps => hkeeps.not_cleared hcleared

end Machine

end Sys2Proof
end

section
/-!
What a parse delivers (43_parser.md R162, R174): the converted fields of a record, and the ranges of the PRES fields and the
field registers (10_state.md R32, R33, R43).
-/

namespace Sys2Proof.Machine

/-- A field with no failure before it in the loop converted, to a pair in range. -/
theorem convField_of_firstFailure_none {toks : List (List Chr)} (h : firstFailure toks fieldOrder = none) (k : Fin 10) :
    ∃ v n, -2147483648 ≤ v ∧ v ≤ 2147483647 ∧ n ≤ 9 ∧ ((schema[k]).2 = .integer → n = 0) ∧
      convField toks k = .value v n := by
  obtain ⟨v, n, hvalue⟩ := (firstFailure_none toks fieldOrder).mp h k (mem_fieldOrder k)
  rcases convField_cases toks k with hranges | hfail | hfail
  · exact hranges
  · cases hvalue.symm.trans hfail
  · cases hvalue.symm.trans hfail

theorem recordResult_field {toks : List (List Chr)} {k : Fin 10} {v : Int} {n : Nat} (h : convField toks k = .value v n) :
    (recordResult toks).fields[k] = (v, n) := by
  have hfield : (recordResult toks).fields[k] = pairOf (convField toks k) := Vector.getElem_ofFn ..
  rw [hfield, h]
  rfl

/-- Only a text with enough tokens, all its fields converting, gives a record. -/
theorem parse_record {rx : List Byte} {drop : Bool} (h : (parse rx drop).valid = true) :
    ∃ u, strip (decodeText rx drop) = chrOpen :: u ∧ 13 ≤ (split u).length ∧
      firstFailure (split u) fieldOrder = none ∧ parse rx drop = recordResult (split u) := by
  rcases parse_cases rx drop with ⟨hparse, _⟩ | ⟨u, hopen, hparse⟩
  · rw [hparse] at h
    cases h
  · rcases parseTokens_cases (split u) with ⟨_, htoks⟩ | ⟨_, k, c, _, _, htoks⟩ | ⟨hcount, hconv, htoks⟩
    · rw [hparse, htoks] at h
      cases h
    · rw [hparse, htoks] at h
      cases h
    · exact ⟨u, hopen, hcount, hconv, hparse.trans htoks⟩

/-- The pair a field's registers hold after a record (10_state.md R34, R35): neither part is cut to its register's width. -/
theorem recordResult_registers {toks : List (List Chr)} {k : Fin 10} {v : Int} {n : Nat}
    (hlow : -2147483648 ≤ v) (hhigh : v ≤ 2147483647) (hscale : n ≤ 9) (h : convField toks k = .value v n) :
    ((recordResult toks).fvals[k]).toInt = v ∧ ((recordResult toks).fscls[k]).toNat = n := by
  rw [fvals_record rfl k, fscls_record rfl k, recordResult_field h, BitVec.toInt_ofInt, BitVec.toNat_ofNat]
  exact ⟨Int.bmod_eq_of_le (by omega) (by omega), Nat.mod_eq_of_lt (by omega)⟩

/-- Settles O41: a record comes of fields that all convert, and a pair in range fits its registers. -/
theorem recordDeliversExactValues : Obligations.RecordDeliversExactValues := by
  refine fun s u hopen => ⟨_, exec_parse s, fun hvalid k => ?_⟩
  obtain ⟨u', hopen', _, hconv, hparse⟩ := parse_record hvalid
  cases hopen.symm.trans hopen'
  obtain ⟨v, n, hlow, hhigh, hscale, _, hfield⟩ := convField_of_firstFailure_none hconv k
  rw [State.setParse_fval, State.setParse_fscl, hparse]
  exact ⟨v, n, hfield, hlow, by omega, hscale, recordResult_registers hlow hhigh hscale hfield⟩

/-- The ranges of a parse's outcome, the field and the token count it reports (10_state.md R32, R33). -/
theorem parse_outcomes (rx : List Byte) (drop : Bool) :
    parse rx drop = emptyResult .noStart 0 0 ∨
      (∃ n, 1 ≤ n ∧ n < 13 ∧ parse rx drop = emptyResult .fewTokens 0 n) ∨
      (∃ (k : Fin 10) (c : Reason) (n : Nat), (c = .notNumeric ∨ c = .outOfRange) ∧ 13 ≤ n ∧
        parse rx drop = emptyResult c k.val n) ∨
      ∃ toks, 13 ≤ toks.length ∧ firstFailure toks fieldOrder = none ∧ parse rx drop = recordResult toks := by
  rcases parse_cases rx drop with ⟨hparse, _⟩ | ⟨u, _, hparse⟩
  · exact .inl hparse
  · rcases parseTokens_cases (split u) with ⟨hfew, htoks⟩ | ⟨hcount, k, c, _, hc, htoks⟩ | ⟨hcount, hconv, htoks⟩
    · exact .inr (.inl ⟨_, split_length_pos u, hfew, hparse.trans htoks⟩)
    · exact .inr (.inr (.inl ⟨k, c, _, hc, hcount, hparse.trans htoks⟩))
    · exact .inr (.inr (.inr ⟨_, hcount, hconv, hparse.trans htoks⟩))

end Sys2Proof.Machine
end

section
/-!
The invariants of a legal state (10_state.md R43) after a reset and after each command's writes.
-/

namespace Sys2Proof.Machine

theorem resetElements_sameElements_reset (s : State) : s.resetElements.sameElements State.reset :=
  sameElements_refl State.reset

/-- Every invariant holds at the reset values, at either level of the reset input. -/
theorem resetElements_legal (s : State) : s.resetElements.Legal where
  buffers := ⟨Nat.zero_le _, Nat.zero_le _, .inl rfl⟩
  frames := .inl rfl
  payloads := nofun
  errors := ⟨fun _ => ⟨rfl, rfl⟩, nofun⟩
  results := by simp [State.resultLegal]
  fields := by simp [State.fieldsLegal]
  resetHeld := fun _ => resetElements_sameElements_reset s

/-- Settles O58: the reset state is the reset of itself. -/
theorem resetStateIsLegal : Obligations.ResetStateIsLegal := resetElements_legal State.reset

/-- While the reset input is released nothing is asked of the reset values (70_reset_and_hazards.md R232). -/
theorem resetHeld_of_released {s : State} (hline : s.resetLine = false) : s.resetHeld :=
  fun hasserted => absurd (hline.symm.trans hasserted) Bool.false_ne_true

/-- The model's own fields carry no invariant but the hold of an asserted reset input. -/
theorem legal_of_sameElements {s t : State} (h : s.Legal) (hsame : t.sameElements s) (hheld : t.resetHeld) :
    t.Legal := by
  obtain ⟨_, hpayload, htx, hrx, _, herr, heovf, hecause, hvalid, hreason, hfidx, hntok, hfval, hfscl⟩ := hsame
  obtain ⟨hbuffers, hframes, hpayloads, herrors, hresults, hfields, _⟩ := h
  refine ⟨?_, ?_, ?_, ?_, ?_, ?_, hheld⟩
  · rwa [State.buffersBounded, hpayload, hrx, htx]
  · rwa [State.frameLegal, htx]
  · rwa [State.payloadLegal, hpayload]
  · rwa [State.errorLegal, herr, heovf, hecause]
  · rwa [State.resultLegal, hvalid, hreason, hntok, hfidx]
  · rwa [State.fieldsLegal, hvalid, hfval, hfscl]

theorem recordError_errorLegal (s : State) (c : Cause) (h : s.errorLegal) : (s.recordError c).errorLegal := by
  obtain ⟨_, hrecorded⟩ := h
  rcases recordError_cases s c with ⟨_, h⟩ | ⟨herr, h⟩ <;> rw [h]
  · exact ⟨nofun, fun _ => cause_code_bounds c⟩
  · exact ⟨fun hclear => absurd (herr.symm.trans hclear) (by decide), fun _ => hrecorded herr⟩

/-- A command error leaves a legal state: its cause is one of the five codes (60_exceptions.md R200, R202). -/
theorem recordError_legal {s : State} (c : Cause) (h : s.Legal) (hline : s.resetLine = false) :
    (s.recordError c).Legal := by
  have herrors := recordError_errorLegal s c h.errors
  have hheld : (s.recordError c).resetHeld :=
    resetHeld_of_released ((State.recordError_resetLine s c).trans hline)
  obtain ⟨v, k, hrecord⟩ := recordError_frame s c
  rw [hrecord] at herrors hheld ⊢
  exact ⟨h.buffers, h.frames, h.payloads, herrors, h.results, h.fields, hheld⟩

theorem allAscii_append_singleton {p : List Byte} {b : Byte} (hp : allAscii p) (hb : b ≤ 0x7F) :
    allAscii (p ++ [b]) := by
  rw [allAscii, List.forall_mem_append]
  exact ⟨hp, List.forall_mem_singleton.mpr hb⟩

theorem execFrmPush_legal (b : Byte) {s : State} (h : s.Legal) (hline : s.resetLine = false) :
    ∃ t, execFrmPush b s = .next t ∧ t.Legal := by
  rcases execFrmPush_cases b s with ⟨_, hexec⟩ | ⟨_, _, hexec⟩ | ⟨hascii, hroom, hexec⟩
  · exact ⟨_, hexec, recordError_legal _ h hline⟩
  · exact ⟨_, hexec, recordError_legal _ h hline⟩
  · refine ⟨_, hexec, ⟨?_, h.frames, ?_, h.errors, h.results, h.fields, resetHeld_of_released hline⟩⟩
    · obtain ⟨hpayload, hrx, htx⟩ := h.buffers
      have hlength : (s.payload ++ [b]).length ≤ 32 := by
        rw [List.length_append, List.length_singleton]
        exact Nat.lt_of_le_of_ne hpayload hroom
      exact ⟨hlength, hrx, htx⟩
    · exact allAscii_append_singleton h.payloads ((isAscii_eq_true_iff b).mp hascii)

theorem execRxPush_legal (b : Byte) {s : State} (h : s.Legal) (hline : s.resetLine = false) :
    ∃ t, execRxPush b s = .next t ∧ t.Legal := by
  rcases execRxPush_cases b s with ⟨_, hexec⟩ | ⟨hroom, hexec⟩
  · exact ⟨_, hexec, recordError_legal _ h hline⟩
  · refine ⟨_, hexec, ⟨?_, h.frames, h.payloads, h.errors, h.results, h.fields, resetHeld_of_released hline⟩⟩
    obtain ⟨hpayload, hrx, htx⟩ := h.buffers
    have hlength : (s.rx ++ [b]).length ≤ 128 := by
      rw [List.length_append, List.length_singleton]
      exact Nat.lt_of_le_of_ne hrx hroom
    exact ⟨hpayload, hlength, htx⟩

/-- A frame of ASCII bytes is legal: what stands before its last three bytes is what it frames (42_framer.md R140). -/
theorem frameLegal_of_tx_eq_frame {t : State} {p : List Byte} (htx : t.tx = frame p) (hp : allAscii p) :
    t.frameLegal := by
  have htake : t.tx.take (t.tx.length - 3) = p := by
    rw [htx, frame_length, Nat.add_sub_cancel, frame_take]
  refine .inr ⟨?_, ?_, ?_⟩
  · rw [htx, frame_length]
    exact Nat.le_add_left ..
  · rw [htake, htx]
  · rwa [htake]

theorem setTx_frame_legal {s : State} (h : s.Legal) (hline : s.resetLine = false) :
    (s.setTx (frame s.payload)).Legal where
  buffers := by
    obtain ⟨hpayload, hrx, _⟩ := h.buffers
    have hlength : (frame s.payload).length = s.payload.length + 3 := frame_length s.payload
    exact ⟨hpayload, hrx, .inr (by rw [State.setTx_tx]; omega)⟩
  frames := frameLegal_of_tx_eq_frame rfl h.payloads
  payloads := h.payloads
  errors := h.errors
  results := h.results
  fields := h.fields
  resetHeld := resetHeld_of_released hline

/-- A token count a reply can have stands in its register uncut (10_state.md R32). -/
theorem toNat_ntok {n : Nat} (h : n ≤ 128) : (BitVec.ofNat 8 n).toNat = n := by
  rw [BitVec.toNat_ofNat]
  omega

/-- The PRES fields after PARSE, by the outcome (10_state.md R32, R33). -/
theorem setParse_resultLegal {s : State} (hrx : s.rx.length ≤ 128) :
    (s.setParse (parse s.rx s.drop)).resultLegal := by
  have hntok := (parse_ntok_le s.rx s.drop).trans hrx
  rcases parse_outcomes s.rx s.drop with h | ⟨n, hpos, hfew, h⟩ | ⟨k, c, n, hc, hcount, h⟩ | ⟨toks, hcount, _, h⟩ <;>
    rw [h] at hntok ⊢
  · simp [State.resultLegal, emptyResult, Reason.code]
  · have hn : n ≤ 128 := hntok
    simp [State.resultLegal, emptyResult, Reason.code, BitVec.le_def, BitVec.lt_def, toNat_ntok hn, hn, hpos, hfew]
  · have hn : n ≤ 128 := hntok
    have hk : k.val % 16 ≤ 9 := by omega
    rcases hc with rfl | rfl <;>
      simp [State.resultLegal, emptyResult, Reason.code, BitVec.le_def, toNat_ntok hn, hn, hk, hcount]
  · have hn : toks.length ≤ 128 := hntok
    simp [State.resultLegal, recordResult, Reason.code, BitVec.le_def, toNat_ntok hn, hn, hcount]

/-- The scale register of a record's field: within SCALEMAX, and 0 for an integer field (10_state.md R43). -/
theorem recordResult_scale {toks : List (List Chr)} (h : firstFailure toks fieldOrder = none) (k : Fin 10) :
    (recordResult toks).fscls[k] ≤ 9 ∧ ((schema[k]).2 = .integer → (recordResult toks).fscls[k] = 0) := by
  obtain ⟨v, n, hlow, hhigh, hscale, hint, hfield⟩ := convField_of_firstFailure_none h k
  obtain ⟨_, hregister⟩ := recordResult_registers hlow hhigh hscale hfield
  refine ⟨BitVec.le_def.mpr (hregister.le.trans hscale), fun hty => BitVec.eq_of_toNat_eq ?_⟩
  exact hregister.trans (hint hty)

/-- The scale registers after any parse; an EMPTY zeroes them. -/
theorem parse_scale (rx : List Byte) (drop : Bool) (k : Fin 10) :
    (parse rx drop).fscls[k] ≤ 9 ∧ ((schema[k]).2 = .integer → (parse rx drop).fscls[k] = 0) := by
  cases hvalid : (parse rx drop).valid with
  | false =>
    obtain ⟨_, hzero⟩ := fields_empty hvalid k
    rw [hzero]
    exact ⟨by decide, fun _ => rfl⟩
  | true =>
    obtain ⟨u, _, _, hconv, hparse⟩ := parse_record hvalid
    rw [hparse]
    exact recordResult_scale hconv k

theorem setParse_fieldsLegal (s : State) : (s.setParse (parse s.rx s.drop)).fieldsLegal := by
  have scale := parse_scale s.rx s.drop
  exact ⟨fields_empty, fun k => (scale k).1, (scale 4).2 rfl, (scale 5).2 rfl, (scale 7).2 rfl, (scale 9).2 rfl⟩

theorem setParse_legal {s : State} (h : s.Legal) (hline : s.resetLine = false) :
    (s.setParse (parse s.rx s.drop)).Legal := by
  obtain ⟨_, hrx, _⟩ := h.buffers
  exact ⟨h.buffers, h.frames, h.payloads, h.errors, setParse_resultLegal hrx, setParse_fieldsLegal s,
    resetHeld_of_released hline⟩

end Sys2Proof.Machine
end

section
/-!
Every step keeps the invariants (10_state.md R43), by what it takes: a command, another access, a reset event.
-/

namespace Sys2Proof.Machine

theorem exec_legal (i : Instr) {s : State} (h : s.Legal) (hline : s.resetLine = false) :
    ∃ t, exec i s = .next t ∧ t.Legal := by
  have released {t : State} (ht : t.resetLine = s.resetLine) : t.resetHeld := resetHeld_of_released (ht.trans hline)
  obtain ⟨hpayload, hrx, htx⟩ := h.buffers
  cases i with
  | nop => exact ⟨_, exec_nop s, h⟩
  | errclr =>
    have herrors : s.clearError.errorLegal := ⟨fun _ => ⟨rfl, rfl⟩, nofun⟩
    exact ⟨_, exec_errclr s, ⟨h.buffers, h.frames, h.payloads, herrors, h.results, h.fields, released rfl⟩⟩
  | sreset => exact ⟨_, exec_sreset s, resetElements_legal s⟩
  | crcClr => exact ⟨_, exec_crcClr s, ⟨h.buffers, h.frames, h.payloads, h.errors, h.results, h.fields, released rfl⟩⟩
  | crcByte b =>
    exact ⟨_, exec_crcByte b s, ⟨h.buffers, h.frames, h.payloads, h.errors, h.results, h.fields, released rfl⟩⟩
  | frmClr =>
    have hbuffers : ((s.setPayload []).setTx []).buffersBounded := ⟨Nat.zero_le _, hrx, .inl rfl⟩
    exact ⟨_, exec_frmClr s, ⟨hbuffers, .inl rfl, nofun, h.errors, h.results, h.fields, released rfl⟩⟩
  | frmPush b => exact execFrmPush_legal b h hline
  | frmBuild => exact ⟨_, exec_frmBuild s, setTx_frame_legal h hline⟩
  | rxClr =>
    have hbuffers : (s.setRx []).buffersBounded := ⟨hpayload, Nat.zero_le _, htx⟩
    exact ⟨_, exec_rxClr s, ⟨hbuffers, h.frames, h.payloads, h.errors, h.results, h.fields, released rfl⟩⟩
  | rxPush b => exact execRxPush_legal b h hline
  | parse => exact ⟨_, exec_parse s, setParse_legal h hline⟩

theorem execute_legal (w : Word) {s : State} (h : s.Legal) (hline : s.resetLine = false) :
    ∃ t, execute w s = .next t ∧ t.Legal := by
  cases hdecode : decode w with
  | instr i =>
    rw [execute_instr w i s hdecode]
    exact exec_legal i h hline
  | error c => exact ⟨_, execute_error w c s hdecode, recordError_legal c h hline⟩

theorem memWrite_legal (off : Offset) (v : Word) {s : State} (h : s.Legal) (hline : s.resetLine = false) :
    ∃ t, memWrite off v s = .next t ∧ t.Legal := by
  rcases writeReg_cases (regAt off) v s with ⟨_, hwrite⟩ | ⟨_, hwrite⟩ | ⟨_, _, hwrite⟩
  · exact ⟨_, hwrite, ⟨h.buffers, h.frames, h.payloads, h.errors, h.results, h.fields, resetHeld_of_released hline⟩⟩
  · obtain ⟨t, hexec, hlegal⟩ := execute_legal v h hline
    exact ⟨t, hwrite.trans hexec, hlegal⟩
  · exact ⟨s, hwrite, h⟩

/-- Answers are no element of the block. -/
theorem answer_legal {s : State} (r : Response) (h : s.Legal) : (s.answer r).Legal :=
  legal_of_sameElements h (answer_sameElements s r) h.resetHeld

/-- What is pending is no element of the block. -/
theorem setInbox_legal {s : State} (l : List Input) (h : s.Legal) : (s.setInbox l).Legal :=
  legal_of_sameElements h (setInbox_sameElements s l) h.resetHeld

theorem runAccess_legal (a : Access) {s : State} (h : s.Legal) (hline : s.resetLine = false) :
    ∃ t, runAccess a s = .next t ∧ t.Legal := by
  rcases runAccess_cases a s with ⟨_, hrun⟩ | ⟨_, _, hrun⟩ | ⟨_, v, _, hrun⟩
  · exact ⟨_, hrun, answer_legal _ h⟩
  · exact ⟨_, hrun, answer_legal _ h⟩
  · obtain ⟨t, hwrite, hlegal⟩ := memWrite_legal a.off v h hline
    rw [hrun, hwrite, mapNext_next]
    exact ⟨_, rfl, answer_legal _ hlegal⟩

theorem turnAway_legal (a : Access) {s : State} (h : s.Legal) : (turnAway a s).Legal := by
  rcases turnAway_cases a s with haway | ⟨r, haway⟩ <;> rw [haway]
  · exact h
  · exact answer_legal r h

/-- Asserting the reset input makes the hold true; releasing it lifts the hold (70_reset_and_hazards.md R231, R232). -/
theorem takeInput_legal (x : Input) {s : State} (h : s.Legal) : ∃ t, takeInput x s = .next t ∧ t.Legal := by
  rcases takeInput_cases x s with ⟨a, _, _, htake⟩ | ⟨a, _, hline, htake⟩ | ⟨_, htake⟩ | ⟨_, htake⟩ | ⟨_, htake⟩
  · exact ⟨_, htake, turnAway_legal a h⟩
  · rw [htake]
    exact runAccess_legal a h hline
  · exact ⟨_, htake, resetElements_legal (s.setResetLine true)⟩
  · exact ⟨_, htake, legal_of_sameElements h (sameElements_refl s) (resetHeld_of_released rfl)⟩
  · exact ⟨_, htake, resetElements_legal s⟩

theorem step_legal {s : State} (h : s.Legal) : ∃ t, step s = .next t ∧ t.Legal := by
  cases hinbox : s.inbox with
  | nil => exact ⟨s, step_nil s hinbox, h⟩
  | cons x rest =>
    obtain ⟨t, htake, hlegal⟩ := takeInput_legal x h
    rw [step_cons s x rest hinbox, htake, mapNext_next]
    exact ⟨_, rfl, setInbox_legal rest hlegal⟩

/-- Settles O57: each input leaves a legal state, and a step is one input. -/
theorem legalStateIsKeptByEveryStep : Obligations.LegalStateIsKeptByEveryStep := by
  intro s t h hstep
  obtain ⟨u, hu, hlegal⟩ := step_legal h
  cases hu.symm.trans hstep
  exact hlegal

end Sys2Proof.Machine
end

section
/-!
The encoder against the decoder (30_encoding.md R80, R86), and the access of each program line (R89, R90).
-/

namespace Sys2Proof.Machine

/-- Settles O1: the decoder reads back the fields the encoder wrote. -/
theorem decodeOfEncodeIsInstruction : Obligations.DecodeOfEncodeIsInstruction := fun i _ => decode_encode i

/-- Settles O2: a word that decodes has no bit outside the fields of its command. -/
theorem encodeOfDecodeIsWord : Obligations.EncodeOfDecodeIsWord := fun _ _ hdecode => (eq_encode_of_decode hdecode).symm

/-- Settles O4: each word is its command's code, a zero RSV and the operand byte, by evaluation. -/
theorem sampleWordsDecode : Obligations.SampleWordsDecode := by
  refine ⟨?_, ?_, ?_, ?_, ?_, ?_, ?_, ?_⟩ <;> decide

theorem encode_eq_assembled (i : Instr) : encode i = i.assembled := by
  have law : Laws.EncodingSelectsRow.Statement i := by
    cases i with
    | nop => exact Laws.EncodingSelectsRow.nop
    | errclr => exact Laws.EncodingSelectsRow.errclr
    | sreset => exact Laws.EncodingSelectsRow.sreset
    | crcClr => exact Laws.EncodingSelectsRow.crcClr
    | crcByte b => exact Laws.EncodingSelectsRow.crcByte b
    | frmClr => exact Laws.EncodingSelectsRow.frmClr
    | frmPush b => exact Laws.EncodingSelectsRow.frmPush b
    | frmBuild => exact Laws.EncodingSelectsRow.frmBuild
    | rxClr => exact Laws.EncodingSelectsRow.rxClr
    | rxPush b => exact Laws.EncodingSelectsRow.rxPush b
    | parse => exact Laws.EncodingSelectsRow.parse
  obtain ⟨hassembled, _⟩ := law
  exact hassembled

theorem lineAccess_command (i : Instr) : lineAccess (.command i) = some (cmdWrite (encode i)) := by
  rw [lineAccess, encode_eq_assembled]

/-- The access of a WR or an RD line is made at the register's offset (30_encoding.md R89). -/
theorem lineAccess_register {r : Reg} {off : Offset} (v : Word) (h : regOffset r = some off) :
    lineAccess (.wr r v) = some ⟨.write v, off, .four⟩ ∧ lineAccess (.rd r) = some ⟨.read, off, .four⟩ := by
  rw [lineAccess, lineAccess, h]
  exact ⟨rfl, rfl⟩

/-- Settles O8: an assembled command line is the encoder's word, and the expansions are their definitions. -/
theorem programLinesDenoteAccesses : Obligations.ProgramLinesDenoteAccesses :=
  ⟨lineAccess_command, fun _ _ v h => lineAccess_register v h, fun _ => ⟨rfl, rfl, rfl, rfl⟩⟩

end Sys2Proof.Machine
end

section
/-!
The register map as a bijection (10_state.md R22), and the field registers' places in it (R34, R35).
-/

namespace Sys2Proof.Machine

theorem regAt_fval (k : Fin 10) : regAt (BitVec.ofNat 12 (0x040 + 4 * k.val)) = .fval k := by
  revert k
  decide

theorem regAt_fscl (k : Fin 10) : regAt (BitVec.ofNat 12 (0x080 + 4 * k.val)) = .fscl k := by
  revert k
  decide

theorem regOffset_exists {r : Reg} (h : r ≠ .reserved) : ∃ off, regOffset r = some off := by
  cases r with
  | reserved => exact absurd rfl h
  | _ => exact ⟨_, rfl⟩

theorem aligned_ofNat {o : Nat} (h : o % 4 = 0) : aligned (BitVec.ofNat 12 o) := by
  rw [aligned_iff, BitVec.toNat_ofNat]
  omega

/-- A register's offset is aligned and leads back to it. -/
theorem regAt_of_regOffset {r : Reg} {off : Offset} (h : regOffset r = some off) : regAt off = r ∧ aligned off := by
  cases r with
  | fval k =>
    cases h
    exact ⟨regAt_fval k, aligned_ofNat (by omega)⟩
  | fscl k =>
    cases h
    exact ⟨regAt_fscl k, aligned_ofNat (by omega)⟩
  | txwin j =>
    cases h
    exact ⟨regAt_txwin j, aligned_ofNat (by omega)⟩
  | rxwin j =>
    cases h
    exact ⟨regAt_rxwin j, aligned_ofNat (by omega)⟩
  | reserved => cases h
  | _ =>
    cases h
    exact ⟨rfl, rfl⟩

/-- Settles O16: each direction of the map by its own case split, over the registers and over the offsets. -/
theorem registerMapRoundTrip : Obligations.RegisterMapRoundTrip :=
  ⟨fun _ => regOffset_exists, fun _ _ => regAt_of_regOffset, regOffset_regAt⟩

theorem memRead_fval (k : Fin 10) (s : State) : memRead (BitVec.ofNat 12 (0x040 + 4 * k.val)) s = s.fval[k] := by
  rw [memRead, regAt_fval]
  rfl

theorem memRead_fscl (k : Fin 10) (s : State) :
    memRead (BitVec.ofNat 12 (0x080 + 4 * k.val)) s = (s.fscl[k]).setWidth 32 := by
  rw [memRead, regAt_fscl]
  rfl

/-- A value zero-extended to a register reads back in its low bits, with 0 above them (20_memory.md R62). -/
theorem extractLsb'_setWidth_low {n : Nat} (x : BitVec n) (h : n ≤ 32) : (x.setWidth 32 : Word).extractLsb' 0 n = x := by
  refine BitVec.eq_of_getLsbD_eq fun i hi => ?_
  rw [BitVec.getLsbD_extractLsb', BitVec.getLsbD_setWidth, Nat.zero_add]
  simp [hi, show i < 32 by omega]

theorem extractLsb'_setWidth_high {n : Nat} (x : BitVec n) (m : Nat) :
    (x.setWidth 32 : Word).extractLsb' n m = 0 := by
  refine BitVec.eq_of_getLsbD_eq fun i hi => ?_
  rw [BitVec.getLsbD_extractLsb', BitVec.getLsbD_setWidth, BitVec.getLsbD_of_ge x (n + i) (by omega)]
  simp

/-- Settles O13: the field offsets name the field registers, which no write changes. -/
theorem fieldRegistersRead : Obligations.FieldRegistersRead := by
  refine fun s k v => ⟨memRead_fval k s, ?_, ?_, memWrite_ignored (regAt_fval k) nofun nofun v s,
    memWrite_ignored (regAt_fscl k) nofun nofun v s⟩ <;> rw [memRead_fscl]
  · exact extractLsb'_setWidth_low _ (by decide)
  · exact extractLsb'_setWidth_high _ 28

theorem bit_eq_ite (b : Bool) : bit b = if b then 1 else 0 := by
  cases b <;> rfl

/-- A buffer's length stands in its length register uncut (10_state.md R29 to R31). -/
theorem toNat_length_register {buf : List Byte} (h : buf.length ≤ 128) :
    (BitVec.ofNat 32 buf.length).toNat = buf.length := by
  rw [BitVec.toNat_ofNat]
  omega

/-- Settles O12: the three registers by their elements, the lengths by the capacities. -/
theorem controlAndLengthRegistersRead : Obligations.ControlAndLengthRegistersRead := by
  refine fun s => ⟨bit_eq_ite s.drop, rfl, extractLsb'_setWidth_low s.crc (by decide), extractLsb'_setWidth_high s.crc 16,
    fun hbounded => ?_⟩
  obtain ⟨hpayload, hrx, htx⟩ := hbounded
  exact ⟨toNat_length_register (by omega), toNat_length_register (by omega), toNat_length_register hrx⟩

end Sys2Proof.Machine
end

section
/-!
STATUS and PRES bit by bit (10_state.md R26, R32).
-/

namespace Sys2Proof.Machine

/-- STATUS.ERR and STATUS.EOVF at their bits. -/
theorem statusWord_errorFlags (s : State) : s.statusWord.getLsbD 0 = s.err ∧ s.statusWord.getLsbD 1 = s.eovf := by
  simp [State.statusWord, bit]

/-- Bits 3 and 2 of STATUS lie between the error flags and ECAUSE, bits 31 to 11 above TXV. -/
theorem statusWord_reserved (s : State) :
    s.statusWord.extractLsb' 2 2 = 0 ∧ s.statusWord.extractLsb' 11 21 = 0 := by
  constructor <;> refine BitVec.eq_of_getLsbD_eq fun i hi => ?_ <;>
    interval_cases i <;> simp [State.statusWord, bit]

/-- Settles O10: each field of STATUS at its bits; the three computed flags are the length tests of R26. -/
theorem statusWordHoldsFlags : Obligations.StatusWordHoldsFlags := by
  intro s
  obtain ⟨herr, heovf⟩ := statusWord_errorFlags s
  obtain ⟨hpfull, hrxfull, htxv⟩ := statusWord_bufferFlags s
  obtain ⟨hlow, hhigh⟩ := statusWord_reserved s
  exact ⟨herr, heovf, hlow, statusWord_ecause s, hpfull, hrxfull, htxv.trans (decide_not ..).symm, hhigh,
    fun v => memWrite_ignored regAt_status nofun nofun v s⟩

/-- Bits 3 to 1, 15 to 12 and 31 to 24 of PRES lie between its fields. -/
theorem presWord_reserved (s : State) :
    s.presWord.extractLsb' 1 3 = 0 ∧ s.presWord.extractLsb' 12 4 = 0 ∧ s.presWord.extractLsb' 24 8 = 0 := by
  refine ⟨?_, ?_, ?_⟩ <;> refine BitVec.eq_of_getLsbD_eq fun i hi => ?_ <;>
    interval_cases i <;> simp [State.presWord, bit]

theorem presWord_fields (s : State) :
    s.presWord.getLsbD 0 = s.valid ∧ s.presWord.extractLsb' 4 4 = s.reason ∧ s.presWord.extractLsb' 8 4 = s.fidx ∧
      s.presWord.extractLsb' 16 8 = s.ntok := by
  refine ⟨?_, ?_, ?_, ?_⟩
  · simp [State.presWord, bit]
  all_goals
    refine BitVec.eq_of_getLsbD_eq fun i hi => ?_
    interval_cases i <;> simp [State.presWord, bit]

theorem regAt_pres : regAt 0x024 = .pres := rfl

/-- Settles O11: each field of PRES at its bits, the bits between them 0. -/
theorem presWordHoldsResult : Obligations.PresWordHoldsResult := by
  intro s
  obtain ⟨hvalid, hreason, hfidx, hntok⟩ := presWord_fields s
  obtain ⟨hlow, hmiddle, hhigh⟩ := presWord_reserved s
  exact ⟨hvalid, hlow, hreason, hfidx, hmiddle, hntok, hhigh, fun v => memWrite_ignored regAt_pres nofun nofun v s⟩

end Sys2Proof.Machine
end

section
/-!
Every input completes (70_reset_and_hazards.md R238), and the steps that take a read and a command word (20_memory.md R62,
30_encoding.md R86).
-/

namespace Sys2Proof.Machine

theorem memWrite_next (off : Offset) (v : Word) (s : State) : ∃ t, memWrite off v s = .next t := by
  rcases writeReg_cases (regAt off) v s with ⟨_, hwrite⟩ | ⟨_, hwrite⟩ | ⟨_, _, hwrite⟩
  · exact ⟨_, hwrite⟩
  · obtain ⟨t, hexec, _⟩ := execute_next_samePort v s
    exact ⟨t, hwrite.trans hexec⟩
  · exact ⟨_, hwrite⟩

theorem runAccess_next (a : Access) (s : State) : ∃ t, runAccess a s = .next t := by
  rcases runAccess_cases a s with ⟨_, hrun⟩ | ⟨_, _, hrun⟩ | ⟨_, v, _, hrun⟩
  · exact ⟨_, hrun⟩
  · exact ⟨_, hrun⟩
  · obtain ⟨t, hwrite⟩ := memWrite_next a.off v s
    rw [hrun, hwrite, mapNext_next]
    exact ⟨_, rfl⟩

theorem takeInput_next (x : Input) (s : State) : ∃ t, takeInput x s = .next t := by
  rcases takeInput_cases x s with ⟨a, _, _, htake⟩ | ⟨a, _, _, htake⟩ | ⟨_, htake⟩ | ⟨_, htake⟩ | ⟨_, htake⟩
  · exact ⟨_, htake⟩
  · rw [htake]
    exact runAccess_next a s
  · exact ⟨_, htake⟩
  · exact ⟨_, htake⟩
  · exact ⟨_, htake⟩

theorem step_next (s : State) : ∃ t, step s = .next t := by
  cases hinbox : s.inbox with
  | nil => exact ⟨s, step_nil s hinbox⟩
  | cons x rest =>
    obtain ⟨t, htake⟩ := takeInput_next x s
    rw [step_cons s x rest hinbox, htake, mapNext_next]
    exact ⟨_, rfl⟩

/-- Settles O23: a command and a command word complete with their port, a step with its input. -/
theorem everyStepCompletes : Obligations.EveryStepCompletes := by
  refine ⟨fun i s => ?_, fun w s => ?_, step_next, step_nil⟩
  · obtain ⟨t, hexec, _⟩ := exec_next_samePort i s
    exact ⟨t, hexec⟩
  · obtain ⟨t, hexec, _⟩ := execute_next_samePort w s
    exact ⟨t, hexec⟩

/-- Settles O20: the accepted read only answers, and the step then takes it from the pending list. -/
theorem readAnswersWithoutEffect : Obligations.ReadAnswersWithoutEffect := by
  intro s off rest hline haligned hinbox
  rw [step_cons s _ rest hinbox, takeInput_access _ s hline, runAccess_read off s haligned, mapNext_next]
  rfl

/-- Settles O21: inside the window the offset is the distance from BASE, which 12 bits hold. -/
theorem systemAddressReachesWindowOffset : Obligations.SystemAddressReachesWindowOffset := by
  refine fun base op size => ⟨fun off => ?_, fun addr houtside => if_neg (by omega)⟩
  have hinside : base ≤ base + off.toNat ∧ base + off.toNat < base + 4096 :=
    ⟨Nat.le_add_right .., Nat.add_lt_add_left off.isLt base⟩
  rw [Access.atSystemAddress, if_pos hinside, Nat.add_sub_cancel_left, BitVec.ofNat_toNat, BitVec.setWidth_eq]

/-- Settles O22: the write of a word to CMD is its execution with an answer, by what the word decodes to. -/
theorem stepRunsDecodedCommand : Obligations.StepRunsDecodedCommand := by
  intro s w rest hline hinbox
  have hstep : step s = mapNext (·.setInbox rest) (mapNext (·.answer ⟨.ok, none⟩) (execute w s)) := by
    rw [step_cons s _ rest hinbox, takeInput_access _ s hline, runAccess_cmdWrite]
  refine ⟨fun i hdecode => ?_, fun c hdecode => ?_⟩
  · obtain ⟨t, hexec, _⟩ := exec_next_samePort i s
    rw [hstep, execute_instr w i s hdecode, hexec, mapNext_next, mapNext_next, mapNext_next]
  · rw [hstep, execute_error w c s hdecode, mapNext_next, mapNext_next]

end Sys2Proof.Machine
end

section
/-!
No input reads what is pending behind it (20_memory.md R69), so a list of inputs does the same whatever follows it.
-/

namespace Sys2Proof.Machine

theorem execute_setInbox (w : Word) (s : State) (l : List Input) :
    execute w (s.setInbox l) = mapNext (·.setInbox l) (execute w s) := by
  cases hdecode : decode w with
  | instr i => rw [execute_instr w i _ hdecode, execute_instr w i _ hdecode, exec_setInbox]
  | error c => rw [execute_error w c _ hdecode, execute_error w c _ hdecode, recordError_setInbox, mapNext_next]

theorem memWrite_setInbox (off : Offset) (v : Word) (s : State) (l : List Input) :
    memWrite off v (s.setInbox l) = mapNext (·.setInbox l) (memWrite off v s) := by
  rw [memWrite, memWrite]
  cases regAt off with
  | cmd => exact execute_setInbox v s l
  | _ => rfl

theorem memRead_setInbox (off : Offset) (s : State) (l : List Input) : memRead off (s.setInbox l) = memRead off s := by
  rw [memRead, memRead]
  cases regAt off <;> rfl

theorem runAccess_setInbox (a : Access) (s : State) (l : List Input) :
    runAccess a (s.setInbox l) = mapNext (·.setInbox l) (runAccess a s) := by
  unfold runAccess
  split_ifs
  · rfl
  · cases a.op with
    | read =>
      dsimp only
      rw [memRead_setInbox]
      rfl
    | write v =>
      obtain ⟨t, hwrite⟩ := memWrite_next a.off v s
      dsimp only
      rw [memWrite_setInbox, hwrite]
      rfl

theorem turnAway_setInbox (a : Access) (s : State) (l : List Input) :
    turnAway a (s.setInbox l) = (turnAway a s).setInbox l := by
  unfold turnAway
  rw [State.setInbox_outbox]
  cases Config.answerDuringReset s.outbox.length a <;> rfl

/-- An access during reset does not act (70_reset_and_hazards.md R232). -/
theorem takeInput_turnedAway (a : Access) {s : State} (hline : s.resetLine = true) :
    takeInput (.access a) s = .next (turnAway a s) :=
  if_pos hline

theorem takeInput_setInbox (x : Input) (s : State) (l : List Input) :
    takeInput x (s.setInbox l) = mapNext (·.setInbox l) (takeInput x s) := by
  cases x with
  | access a =>
    cases hline : s.resetLine with
    | true =>
      rw [takeInput_turnedAway a hline, takeInput_turnedAway a (s := s.setInbox l) hline, turnAway_setInbox, mapNext_next]
    | false => rw [takeInput_access a s hline, takeInput_access a (s.setInbox l) hline, runAccess_setInbox]
  | resetAssert => rfl
  | resetRelease => rfl
  | powerUp => rfl

/-- The step that takes an input, from what the input does whatever is pending. -/
theorem step_setInbox_cons {s t : State} {x : Input} (h : takeInput x s = .next t) (rest : List Input) :
    step (s.setInbox (x :: rest)) = .next (t.setInbox rest) := by
  rw [step_cons _ x rest (State.setInbox_inbox s _), takeInput_setInbox, h, mapNext_next, mapNext_next]
  rfl

/-- A list of inputs takes the block to one state, whatever is pending behind it. -/
theorem run_inputs (first : List Input) (s : State) :
    ∃ t : State, ∀ later, run first.length (s.setInbox (first ++ later)) = .next (t.setInbox later) := by
  induction first generalizing s with
  | nil => exact ⟨s, fun _ => rfl⟩
  | cons x first ih =>
    obtain ⟨u, htake⟩ := takeInput_next x s
    obtain ⟨t, hrun⟩ := ih u
    exact ⟨t, fun later => (run_succ _ _ _ (step_setInbox_cons htake (first ++ later))).trans (hrun later)⟩

/-- Settles O24: the state the first inputs lead to is chosen before what follows them. -/
theorem laterInputsDoNotAffectEarlier : Obligations.LaterInputsDoNotAffectEarlier := by
  intro s first later
  obtain ⟨t, hrun⟩ := run_inputs first s
  have halone := hrun []
  rw [List.append_nil] at halone
  exact ⟨t.setInbox [], halone, State.setInbox_inbox t [], hrun later⟩

end Sys2Proof.Machine
end

section
/-!
The hold of an asserted reset input (70_reset_and_hazards.md R231, R232), and SRESET (40_control.md R102).
-/

namespace Sys2Proof.Machine

/-- The reset input is asserted, and every element is at its reset value. -/
structure State.HeldInReset (s : State) : Prop where
  line : s.resetLine = true
  values : s.atResetValues

theorem setInbox_heldInReset {s : State} (l : List Input) (h : s.HeldInReset) : (s.setInbox l).HeldInReset :=
  ⟨h.line, h.values⟩

theorem turnAway_heldInReset (a : Access) {s : State} (h : s.HeldInReset) : (turnAway a s).HeldInReset := by
  rcases turnAway_cases a s with haway | ⟨r, haway⟩ <;> rw [haway]
  · exact h
  · exact ⟨h.line, h.values⟩

theorem step_turnedAway {s : State} {a : Access} {rest : List Input} (h : s.HeldInReset)
    (hinbox : s.inbox = .access a :: rest) : step s = .next ((turnAway a s).setInbox rest) := by
  rw [step_cons s _ rest hinbox, takeInput_turnedAway a h.line, mapNext_next]

theorem run_turnedAway {turned : List Access} {rest : List Input} {s : State} (h : s.HeldInReset)
    (hinbox : s.inbox = turned.map Input.access ++ rest) :
    ∃ t, run turned.length s = .next t ∧ t.HeldInReset ∧ t.inbox = rest := by
  induction turned generalizing s with
  | nil => exact ⟨s, rfl, h, hinbox⟩
  | cons a turned ih =>
    have hheld := setInbox_heldInReset (turned.map Input.access ++ rest) (turnAway_heldInReset a h)
    obtain ⟨t, hrun, hdone⟩ := ih hheld (State.setInbox_inbox _ _)
    exact ⟨t, (run_succ _ _ _ (step_turnedAway h hinbox)).trans hrun, hdone⟩

theorem step_resetAssert {s : State} {rest : List Input} (hinbox : s.inbox = .resetAssert :: rest) :
    ∃ t, step s = .next t ∧ t.HeldInReset ∧ t.inbox = rest :=
  ⟨_, step_cons s _ rest hinbox, ⟨rfl, resetElements_atResetValues s⟩, rfl⟩

theorem step_resetRelease {s : State} {rest : List Input} (hinbox : s.inbox = .resetRelease :: rest) :
    step s = .next ((s.setResetLine false).setInbox rest) :=
  step_cons s _ rest hinbox

/-- Settles O25: the assertion sets the reset values, the accesses turned away keep them, and so does the release. -/
theorem firstAccessAfterResetSeesResetState : Obligations.FirstAccessAfterResetSeesResetState := by
  intro s turned rest hinbox
  obtain ⟨t, hassert, hheld, hturned⟩ := step_resetAssert hinbox
  obtain ⟨u, hrun, huheld, hrelease⟩ := run_turnedAway hheld hturned
  refine ⟨(u.setResetLine false).setInbox rest, ?_, huheld.values, rfl, rfl⟩
  calc run (turned.length + 2) s
      = run (turned.length + 1) t := run_succ _ _ _ hassert
    _ = run 1 u := run_add 1 hrun
    _ = .next ((u.setResetLine false).setInbox rest) := run_succ 0 _ _ (step_resetRelease hrelease)

/-- Settles O28: SRESET is `resetElements`, which reads as the reset state; a malformed word is refused before it runs. -/
theorem sresetResetsEveryElement : Obligations.SresetResetsEveryElement := by
  refine fun s => ⟨exec_sreset s, rfl, rfl, fun w hopc hbits => ?_, fun t off ht _ => ?_⟩
  · have hmem : opcField w ∈ operandlessOpcodes := by
      rw [hopc]
      decide
    exact execute_malformed s hmem hbits
  · cases (exec_sreset s).symm.trans ht
    rw [memRead_atResetValues off _ (resetElements_atResetValues s), memRead_atResetValues off _ reset_atResetValues]

end Sys2Proof.Machine
end

section
/-!
The pseudo-instructions FRAME and RXBYTES run from any state (30_encoding.md R90): a clear, one push per byte, and the command
behind them.
-/

namespace Sys2Proof.Machine

/-- The state after `n` commands answered OK, with the reset input released (log 2, log 3). -/
def State.answered (s : State) (n : Nat) : State :=
  { s with resetLine := false, outbox := s.outbox ++ okAnswers n }

theorem answered_zero (s : State) : s.answered 0 = s.setResetLine false := by
  rw [State.answered, okAnswers, List.replicate_zero, List.append_nil]
  rfl

theorem answered_answer (s : State) (n : Nat) : (s.answered n).answer ⟨.ok, none⟩ = s.answered (n + 1) := by
  have hanswers : s.outbox ++ okAnswers n ++ [⟨.ok, none⟩] = s.outbox ++ okAnswers (n + 1) := by
    rw [okAnswers, okAnswers, List.replicate_succ', List.append_assoc]
  simp only [State.answered, State.answer, hanswers]

/-- The commands of a list take the elements of the block from those of `s` to those of `t`, each answered OK. -/
def State.CommandsLeave (s : State) (is : List Instr) (t : State) : Prop := s.RunsTo is (t.answered is.length)

theorem commandsLeave_nil (s : State) : s.CommandsLeave [] s := by
  rw [State.CommandsLeave, List.length_nil, answered_zero]
  exact runsTo_nil s

/-- One command more, by what it does at the answered state. -/
theorem commandsLeave_append_singleton {s t u : State} {is : List Instr} {i : Instr} (h : s.CommandsLeave is t)
    (hexec : ∀ n, exec i (t.answered n) = .next (u.answered n)) : s.CommandsLeave (is ++ [i]) u := by
  have hnext := runsTo_append_singleton h (hexec is.length)
  rw [answered_answer] at hnext
  rwa [State.CommandsLeave, List.length_append, List.length_singleton]

theorem run_of_commandsLeave {s t : State} {is : List Instr} (h : s.CommandsLeave is t) :
    run is.length (s.withCommands is) = .next ((t.answered is.length).setInbox []) :=
  runsTo_withCommands h

/-- FRM.CLR and then one FRM.PUSH per byte, ASCII and within the capacity, leave those bytes as the payload. -/
theorem commandsLeave_frmPushes (s : State) {p : List Byte} (hascii : allAscii p) (hlength : p.length ≤ 32) :
    s.CommandsLeave (.frmClr :: p.map .frmPush) ((s.setPayload p).setTx []) := by
  induction p using List.reverseRecOn with
  | nil => exact commandsLeave_append_singleton (commandsLeave_nil s) fun _ => exec_frmClr _
  | append_singleton p b ih =>
    rw [allAscii, List.forall_mem_append, List.forall_mem_singleton] at hascii
    obtain ⟨hp, hb⟩ := hascii
    rw [List.length_append, List.length_singleton] at hlength
    have hroom : p.length ≠ 32 := by omega
    rw [List.map_append, List.map_singleton, ← List.cons_append]
    exact commandsLeave_append_singleton (ih hp (by omega)) fun _ => exec_frmPush_append hb hroom

/-- RX.CLR and then one RX.PUSH per byte, within the capacity, leave those bytes as the reply. -/
theorem commandsLeave_rxPushes (s : State) {bs : List Byte} (hlength : bs.length ≤ 128) :
    s.CommandsLeave (.rxClr :: bs.map .rxPush) (s.setRx bs) := by
  induction bs using List.reverseRecOn with
  | nil => exact commandsLeave_append_singleton (commandsLeave_nil s) fun _ => exec_rxClr _
  | append_singleton bs b ih =>
    rw [List.length_append, List.length_singleton] at hlength
    have hroom : bs.length ≠ 128 := by omega
    rw [List.map_append, List.map_singleton, ← List.cons_append]
    exact commandsLeave_append_singleton (ih (by omega)) fun _ => exec_rxPush_append b hroom

/-- Settles O38: FRM.BUILD frames the payload that the clear and the pushes leave. -/
theorem frameSequenceBuildsFrame : Obligations.FrameSequenceBuildsFrame := by
  intro s p hascii hlength
  have hbuilt : s.CommandsLeave (expand (.frame p)) ((s.setPayload p).setTx (frame p)) :=
    commandsLeave_append_singleton (commandsLeave_frmPushes s hascii hlength) fun _ => exec_frmBuild _
  have hcount : (expand (.frame p)).length = p.length + 2 := by simp [expand]
  have hrun := run_of_commandsLeave hbuilt
  rw [hcount] at hrun
  exact hrun

/-- Settles O51: PARSE reads the reply that the clear and the pushes leave, under the policy they do not touch. -/
theorem pushedReplyIsParsed : Obligations.PushedReplyIsParsed := by
  intro s bs hlength
  have hparsed : s.CommandsLeave (expand (.rxbytes bs) ++ [.parse]) ((s.setRx bs).setParse (parse bs s.drop)) :=
    commandsLeave_append_singleton (commandsLeave_rxPushes s hlength) fun _ => exec_parse _
  have hcount : (expand (.rxbytes bs) ++ [Instr.parse]).length = bs.length + 2 := by simp [expand]
  have hrun := run_of_commandsLeave hparsed
  rw [hcount] at hrun
  exact hrun

end Sys2Proof.Machine
end

section
/-!
What a command may write (10_state.md section 1), and its independence of the error record (60_exceptions.md R203).
-/

namespace Sys2Proof.Machine

/-- Settles O55, command by command: the next state is a writer of the command's own elements, or an error record. -/
theorem onlyNamedCommandsWriteEachElement : Obligations.OnlyNamedCommandsWriteEachElement := by
  intro i s
  cases i with
  | nop => exact ⟨_, exec_nop s, by simp⟩
  | errclr => exact ⟨_, exec_errclr s, by simp⟩
  | sreset => exact ⟨_, exec_sreset s, by simp⟩
  | crcClr => exact ⟨_, exec_crcClr s, by simp⟩
  | crcByte b => exact ⟨_, exec_crcByte b s, by simp⟩
  | frmClr => exact ⟨_, exec_frmClr s, by simp⟩
  | frmPush b =>
    rcases execFrmPush_cases b s with ⟨_, hexec⟩ | ⟨_, _, hexec⟩ | ⟨_, _, hexec⟩ <;> exact ⟨_, hexec, by simp⟩
  | frmBuild => exact ⟨_, exec_frmBuild s, by simp⟩
  | rxClr => exact ⟨_, exec_rxClr s, by simp⟩
  | rxPush b =>
    rcases execRxPush_cases b s with ⟨_, hexec⟩ | ⟨_, hexec⟩ <;> exact ⟨_, hexec, by simp⟩
  | parse => exact ⟨_, exec_parse s, by simp⟩

/-- The state with another error record. -/
def State.withErrors (s : State) (e v : Bool) (k : BitVec 4) : State := { s with err := e, eovf := v, ecause := k }

/-- Two states differ at most in the error record. -/
def State.SameButErrors (t u : State) : Prop := t = u.withErrors t.err t.eovf t.ecause

theorem recordError_sameButErrors (s : State) (c d : Cause) (e v : Bool) (k : BitVec 4) :
    (s.recordError c).SameButErrors ((s.withErrors e v k).recordError d) := by
  rw [recordError_eq, recordError_eq]
  rfl

/-- No command reads the error record but to add to it. -/
theorem exec_withErrors (i : Instr) (s : State) (e v : Bool) (k : BitVec 4) :
    ∃ t u, exec i s = .next t ∧ exec i (s.withErrors e v k) = .next u ∧ t.SameButErrors u := by
  cases i with
  | nop => exact ⟨_, _, exec_nop s, exec_nop _, rfl⟩
  | errclr => exact ⟨_, _, exec_errclr s, exec_errclr _, rfl⟩
  | sreset => exact ⟨_, _, exec_sreset s, exec_sreset _, rfl⟩
  | crcClr => exact ⟨_, _, exec_crcClr s, exec_crcClr _, rfl⟩
  | crcByte b => exact ⟨_, _, exec_crcByte b s, exec_crcByte b _, rfl⟩
  | frmClr => exact ⟨_, _, exec_frmClr s, exec_frmClr _, rfl⟩
  | frmPush b =>
    by_cases hascii : b ≤ 0x7F
    · by_cases hfull : s.payload.length = 32
      · exact ⟨_, _, exec_frmPush_full hascii hfull, exec_frmPush_full (s := s.withErrors e v k) hascii hfull,
          recordError_sameButErrors s ..⟩
      · exact ⟨_, _, exec_frmPush_append hascii hfull, exec_frmPush_append (s := s.withErrors e v k) hascii hfull, rfl⟩
    · have hbad : b > 0x7F := BitVec.not_le.mp hascii
      exact ⟨_, _, execFrmPush_nonAscii s hbad, execFrmPush_nonAscii _ hbad, recordError_sameButErrors s ..⟩
  | frmBuild => exact ⟨_, _, exec_frmBuild s, exec_frmBuild _, rfl⟩
  | rxClr => exact ⟨_, _, exec_rxClr s, exec_rxClr _, rfl⟩
  | rxPush b =>
    by_cases hfull : s.rx.length = 128
    · exact ⟨_, _, exec_rxPush_full b hfull, exec_rxPush_full b (s := s.withErrors e v k) hfull,
        recordError_sameButErrors s ..⟩
    · exact ⟨_, _, exec_rxPush_append b hfull, exec_rxPush_append b (s := s.withErrors e v k) hfull, rfl⟩
  | parse => exact ⟨_, _, exec_parse s, exec_parse _, rfl⟩

theorem execute_withErrors (w : Word) (s : State) (e v : Bool) (k : BitVec 4) :
    ∃ t u, execute w s = .next t ∧ execute w (s.withErrors e v k) = .next u ∧ t.SameButErrors u := by
  cases hdecode : decode w with
  | instr i =>
    rw [execute_instr w i s hdecode, execute_instr w i _ hdecode]
    exact exec_withErrors i s e v k
  | error c =>
    exact ⟨_, _, execute_error w c s hdecode, execute_error w c _ hdecode, recordError_sameButErrors s c c e v k⟩

/-- The error records of two states agree. -/
def State.SameErrors (s t : State) : Prop := t.err = s.err ∧ t.eovf = s.eovf ∧ t.ecause = s.ecause

/-- What a command does to the error record: nothing, or it clears it, or recording an error is all it does. -/
theorem exec_errors (i : Instr) (s : State) :
    ∃ t, exec i s = .next t ∧ (s.SameErrors t ∨ i = .errclr ∨ i = .sreset ∨ ∃ c, t = s.recordError c) := by
  cases i with
  | nop => exact ⟨_, exec_nop s, .inl ⟨rfl, rfl, rfl⟩⟩
  | errclr => exact ⟨_, exec_errclr s, .inr (.inl rfl)⟩
  | sreset => exact ⟨_, exec_sreset s, .inr (.inr (.inl rfl))⟩
  | crcClr => exact ⟨_, exec_crcClr s, .inl ⟨rfl, rfl, rfl⟩⟩
  | crcByte b => exact ⟨_, exec_crcByte b s, .inl ⟨rfl, rfl, rfl⟩⟩
  | frmClr => exact ⟨_, exec_frmClr s, .inl ⟨rfl, rfl, rfl⟩⟩
  | frmPush b =>
    rcases execFrmPush_cases b s with ⟨_, hexec⟩ | ⟨_, _, hexec⟩ | ⟨_, _, hexec⟩
    · exact ⟨_, hexec, .inr (.inr (.inr ⟨_, rfl⟩))⟩
    · exact ⟨_, hexec, .inr (.inr (.inr ⟨_, rfl⟩))⟩
    · exact ⟨_, hexec, .inl ⟨rfl, rfl, rfl⟩⟩
  | frmBuild => exact ⟨_, exec_frmBuild s, .inl ⟨rfl, rfl, rfl⟩⟩
  | rxClr => exact ⟨_, exec_rxClr s, .inl ⟨rfl, rfl, rfl⟩⟩
  | rxPush b =>
    rcases execRxPush_cases b s with ⟨_, hexec⟩ | ⟨_, hexec⟩
    · exact ⟨_, hexec, .inr (.inr (.inr ⟨_, rfl⟩))⟩
    · exact ⟨_, hexec, .inl ⟨rfl, rfl, rfl⟩⟩
  | parse => exact ⟨_, exec_parse s, .inl ⟨rfl, rfl, rfl⟩⟩

theorem execute_errors (w : Word) (s : State) :
    ∃ t, execute w s = .next t ∧
      (s.SameErrors t ∨ w = 0x01000000 ∨ w = 0x02000000 ∨ ∃ c, t = s.recordError c) := by
  cases hdecode : decode w with
  | instr i =>
    obtain ⟨t, hexec, herrors⟩ := exec_errors i s
    have hw : w = encode i := eq_encode_of_decode hdecode
    refine ⟨t, (execute_instr w i s hdecode).trans hexec, ?_⟩
    rcases herrors with hsame | rfl | rfl | hrecord
    · exact .inl hsame
    · exact .inr (.inl hw)
    · exact .inr (.inr (.inl hw))
    · exact .inr (.inr (.inr hrecord))
  | error c => exact ⟨_, execute_error w c s hdecode, .inr (.inr (.inr ⟨c, rfl⟩))⟩

/-- Settles O53: precision by what a word does to the error record, the rest by its independence of the record. -/
theorem errorsArePreciseAndBlockNothing : Obligations.ErrorsArePreciseAndBlockNothing := by
  refine ⟨fun w s t ht => ?_, execute_withErrors⟩
  obtain ⟨u, hu, herrors⟩ := execute_errors w s
  cases hu.symm.trans ht
  rcases herrors with hsame | herrclr | hsreset | ⟨c, hrecord⟩
  · exact .inl hsame
  · exact .inr (.inl herrclr)
  · exact .inr (.inr (.inl hsreset))
  · obtain ⟨v, k, hframe⟩ := recordError_frame s c
    exact .inr (.inr (.inr ⟨c, v, k, hrecord, hrecord.trans hframe⟩))

end Sys2Proof.Machine
end

section
/-!
Commands repeated (20_memory.md R68): those that set what they write, those that accumulate, and a malformed word.
-/

namespace Sys2Proof.Machine

/-- The commands without an operand write values that do not depend on what they write over. -/
theorem exec_repeated {i : Instr} (hi : i.hasOperand = false) (s : State) :
    ∃ t, exec i s = .next t ∧ exec i t = .next t := by
  cases i with
  | nop => exact ⟨_, exec_nop s, exec_nop _⟩
  | errclr => exact ⟨_, exec_errclr s, exec_errclr _⟩
  | sreset => exact ⟨_, exec_sreset s, exec_sreset _⟩
  | crcClr => exact ⟨_, exec_crcClr s, exec_crcClr _⟩
  | frmClr => exact ⟨_, exec_frmClr s, exec_frmClr _⟩
  | frmBuild => exact ⟨_, exec_frmBuild s, exec_frmBuild _⟩
  | rxClr => exact ⟨_, exec_rxClr s, exec_rxClr _⟩
  | parse => exact ⟨_, exec_parse s, exec_parse _⟩
  | crcByte b => cases hi
  | frmPush b => cases hi
  | rxPush b => cases hi

theorem frmPush_twice {s : State} {b : Byte} (hascii : b ≤ 0x7F) (hroom : s.payload.length < 31) :
    ∃ t u, exec (.frmPush b) s = .next t ∧ exec (.frmPush b) t = .next u ∧ u.payload = s.payload ++ [b, b] := by
  have hroom' : (s.setPayload (s.payload ++ [b])).payload.length ≠ 32 := by
    rw [State.setPayload_payload, List.length_append, List.length_singleton]
    omega
  refine ⟨_, _, exec_frmPush_append hascii (by omega), exec_frmPush_append hascii hroom', ?_⟩
  exact List.append_assoc ..

theorem rxPush_twice {s : State} (b : Byte) (hroom : s.rx.length < 127) :
    ∃ t u, exec (.rxPush b) s = .next t ∧ exec (.rxPush b) t = .next u ∧ u.rx = s.rx ++ [b, b] := by
  have hroom' : (s.setRx (s.rx ++ [b])).rx.length ≠ 128 := by
    rw [State.setRx_rx, List.length_append, List.length_singleton]
    omega
  refine ⟨_, _, exec_rxPush_append b (by omega), exec_rxPush_append b hroom', ?_⟩
  exact List.append_assoc ..

theorem crcByte_twice_ne : crcStep (crcStep 0x0000 0x51) 0x51 ≠ crcStep 0x0000 0x51 := by
  have hfirst : crcStep 0x0000 0x51 = 0x4AD4 := by decide
  rw [hfirst]
  decide

/-- A repeat of CRC.BYTE 0x51 after reset changes the accumulator again (41_checksum.md R124). -/
theorem crcByte_reset_twice :
    ∃ t u, exec (.crcByte 0x51) State.reset = .next t ∧ exec (.crcByte 0x51) t = .next u ∧ u.crc ≠ t.crc := by
  refine ⟨_, _, exec_crcByte 0x51 State.reset, exec_crcByte 0x51 _, ?_⟩
  rw [State.setCrc_crc, State.setCrc_crc]
  exact crcByte_twice_ne

/-- A malformed word repeated: the first error is recorded, the second only overflows (60_exceptions.md R202). -/
theorem execute_error_twice {w : Word} {c : Cause} {s : State} (hdecode : decode w = .error c) (herr : s.err = false) :
    ∃ t u, execute w s = .next t ∧ execute w t = .next u ∧ t.err = true ∧ t.eovf = s.eovf ∧ u.eovf = true ∧
      u.ecause = t.ecause := by
  refine ⟨_, _, execute_error w c s hdecode, execute_error w c _ hdecode, State.recordError_err s c, ?_, ?_, ?_⟩
  · rw [recordError_first c herr]
  · rw [recordError_further c (State.recordError_err s c)]
  · rw [recordError_further c (State.recordError_err s c)]

/-- Settles O56: the clauses by their commands; a repeat of CRC.BYTE is a second fold. -/
theorem repeatedCommands : Obligations.RepeatedCommands := by
  refine ⟨fun i hi s => exec_repeated ?_ s, fun s b hascii hroom => frmPush_twice hascii hroom,
    fun s b hroom => rxPush_twice b hroom, fun s b => ⟨_, _, exec_crcByte b s, exec_crcByte b _, rfl⟩,
    crcByte_reset_twice,
    fun s w c hdecode herr => execute_error_twice hdecode herr⟩
  have hall : ∀ j ∈ [Instr.nop, .errclr, .sreset, .crcClr, .frmClr, .frmBuild, .rxClr, .parse],
      j.hasOperand = false := by decide
  exact hall i hi

end Sys2Proof.Machine
end
